-- ==== Sys2Proof/Word.lean ====
section
/-! DEFINITION. The word types of the block (spec 00_scope.md R6, R8: a byte has bit 0 least
significant; all values are unsigned). -/

namespace Sys2Proof

/-- A byte: 8 bits, bit 0 the least significant (R8). -/
abbrev Byte := BitVec 8

/-- A flash byte address, `ADDR_W` = 24 bits (R6, R26). -/
abbrev Addr := BitVec 24

/-- A sector number, `SECTOR_W` = 16 bits (R6, R26). -/
abbrev Sector := BitVec 16

/-- A host command code, 4 bits (R26, R97). -/
abbrev Cmd := BitVec 4

end Sys2Proof
end

