-- ==== Sys2Proof/Machine/Types.lean ====
section
/-! DEFINITION. The plain data of the block: requests, frames, responses, stages, events
(spec 10_state.md, 30_encoding.md), and the inputs from outside it (hosts, transport). -/

namespace Sys2Proof

/-- A host request (R26). `rlen` has `LEN_W` bits and `wdata` at most `2^LEN_W - 1` bytes:
both bounds are `Request.wfAt`, since `LEN_W` is an open parameter. -/
structure Request where
  cmd    : Cmd
  addr   : Addr
  sector : Sector
  rlen   : Nat
  wdata  : List Byte
  sr1v   : Byte
  sr2v   : Byte
  deriving DecidableEq, Repr, Inhabited

/-- The request all of whose fields are zero: `cmd` 0 is a reserved code (D3). -/
def Request.zero : Request :=
  { cmd := 0, addr := 0, sector := 0, rlen := 0, wdata := [], sr1v := 0, sr2v := 0 }

/-- The data phase of one chip-select cycle: `None`, `Tx(ds)` or `Rx(k)` (R113). -/
inductive Data where
  | noData
  | tx (ds : List Byte)
  | rx (k : Nat)
  deriving DecidableEq, Repr, Inhabited

/-- What one chip-select cycle carries: a command phase and a data phase (R81, R113). -/
structure Frame where
  cmd  : List Byte
  data : Data
  deriving DecidableEq, Repr, Inhabited

/-- The seven wire formats (R81). -/
inductive Format where
  | wOp
  | wOpRx1
  | wOpRx3
  | wOpTx2
  | wOpA
  | wOpARxN
  | wOpATxN
  deriving DecidableEq, Repr, Inhabited

/-- An encoded instruction: a host request or the frame of one chip-select cycle. -/
inductive Code where
  | request (q : Request)
  | frame (f : Frame)
  deriving DecidableEq, Repr, Inhabited

/-- Why a byte list is not a frame of the block (R80, R81). -/
inductive DecodeError where
  /-- A chip-select cycle that carries no byte. -/
  | emptyCycle
  /-- Byte 0 is none of the twelve opcodes. -/
  | unknownOpcode (op : Byte)
  /-- The opcode is known and the rest does not have its format. -/
  | wrongShape (op : Byte)
  deriving DecidableEq, Repr, Inhabited

/-- The operation sequencer's position (R24). -/
inductive Stage where
  | idle
  | preBg
  | wgWren
  | wgPoll
  | frame
  | postBg
  | rsten
  | rst
  deriving DecidableEq, Repr, Inhabited

/-- `result` (R31). `busy` is never produced (R224); code 0b11 is reserved and has no constructor. -/
inductive Result where
  | ok
  | error
  | busy
  deriving DecidableEq, Repr, Inhabited

/-- `cause` (R32). -/
inductive Cause where
  | noCause
  | transaction
  | idMismatch
  | illegalCmd
  deriving DecidableEq, Repr, Inhabited

/-- A response (R30). -/
structure Response where
  result : Result
  cause  : Cause
  rdata  : List Byte
  deriving DecidableEq, Repr, Inhabited

/-- The events of the trace (R38). In `txn`, `n2` is absent when the data phase made no call (R115). -/
inductive Event where
  | grant (h : Nat) (q : Request)
  | txn (h : Nat) (stage : Stage) (cmd : List Byte) (data : Data) (n1 : Nat) (n2 : Option Nat)
      (rx : List Byte) (ok : Bool)
  | resp (h : Nat) (r : Response)
  | reset
  deriving DecidableEq, Repr, Inhabited

/-- What the block asks of the oracle: `Transmit(bs)` (R111), `Receive(k)` (R112) or
`draw_byte()` (R127). -/
inductive Ask where
  | transmit (bs : List Byte)
  | receive (k : Nat)
  | statusByte
  deriving DecidableEq, Repr, Inhabited

/-- One answer of the oracle: a transferred count and the bytes that came with it (R111, R112). -/
structure Answer where
  count : Nat
  bytes : List Byte
  deriving DecidableEq, Repr, Inhabited

/-- The result of one transaction: `Ok(rx)` or `Fail` (R113). -/
inductive XferResult where
  | ok (rx : List Byte)
  | fail
  deriving DecidableEq, Repr, Inhabited

/-- `GATE_ERR_POLICY` (R6, R126, R127). -/
inductive GatePolicy where
  | abort
  | ignore
  deriving DecidableEq, Repr, Inhabited

/-- Which agent moves next (R11): the engine, a host posting (R191), a host taking its response
(R196), or the environment resetting the block (R240). -/
inductive Turn where
  | engine
  | post (h : Nat) (q : Request)
  | take (h : Nat)
  | reset
  deriving DecidableEq, Repr, Inhabited

/-- What the wire toward the chip shows, in order (R114). -/
inductive WireAct where
  | fall
  | byte (b : Byte)
  | rise
  deriving DecidableEq, Repr, Inhabited

end Sys2Proof
end

