-- ==== Sys2Proof/Config.lean ====
section
/-! DEFINITION. What is fixed for the block's whole life (spec 00_scope.md R6, R244) and the free
values of the oracle (R36). The open parameters and the free values are opaque constants: nothing
can be proved of their values, so a theorem holds for every legal value of them. The values the
source fixes (R6) stand beside what reads them: Machine/Operands.lean and Machine/Flags.lean. -/

namespace Sys2Proof

/-! ### Open parameters (R6; DESIGN CHOICE, log entries 6, 7) -/

/-- `N_HOSTS - 1`: any natural, so that `N_HOSTS` is any natural of at least 1 (D2). -/
opaque Config.hostsLessOne : Nat

/-- `N_HOSTS` (R6, R190). -/
def Config.nHosts : Nat := Config.hostsLessOne + 1

/-- `LEN_W - 1`: any natural, so that `LEN_W` is any natural of at least 1 (D21). -/
opaque Config.lenWLessOne : Nat

/-- `LEN_W` (R6, R26). -/
def Config.lenW : Nat := Config.lenWLessOne + 1

/-- `FILL_BYTE` (R6, R112, D11). -/
opaque Config.fillByte : Byte

/-- `GATE_ERR_POLICY` (R6, R126, R127, D8). -/
opaque Config.gateErrPolicy : GatePolicy

/-- `WRSR_WAIT` (R6, R140, D17). -/
opaque Config.wrsrWait : Bool

/-- `ARB_POLICY` (R6, R198, D14): from the pending hosts and the trace to a host number. It is read
through `arbPick` (Machine/Arbiter.lean), which holds it to a member of the set (DESIGN CHOICE, log entry 8). -/
opaque Config.arbPolicy : List Nat → List Event → Nat

/-! ### Free values of the oracle (R36, R111, R112, R127; DESIGN CHOICE, log entry 4)

The first argument is the number of answers drawn so far, the second the trace (the draw may depend
on the whole trace, R36). -/

/-- A transferred count the oracle answers to a call (R111, R112, D36). -/
opaque Config.oracleCount : Nat → List Event → Ask → Nat

/-- The byte at one position of what the oracle answers to a call (R112, R127). -/
opaque Config.oracleByte : Nat → List Event → Ask → Nat → Byte

end Sys2Proof
end

