-- ==== Sys2Proof/Machine/Operands.lean ====
section
/-! DEFINITION. Operand assembly: the address bytes of a frame and the sector address (spec
20_memory.md R62, 30_encoding.md R82, R83). -/

namespace Sys2Proof.Machine

/-- `SECTOR_SIZE` (R6). -/
def sectorSize : Nat := 4096

/-- `PAGE_SIZE` (R6): no rule of the block reads it (R147); the host duty of R248 does. -/
def pageSize : Nat := 256

/-- `A2 A1 A0`: the address bytes of a frame, most significant first (R62, R82). -/
def addrBytes (a : Addr) : List Byte :=
  [a.extractLsb' 16 8, a.extractLsb' 8 8, a.extractLsb' 0 8]

/-- The address three bytes carry, most significant first: the reader's side of R82. -/
def addrOfBytes (a2 a1 a0 : Byte) : Addr := a2 ++ a1 ++ a0

/-- `sector_addr(k) = trunc_24(zext_28(k) * 4096)` (R83). -/
def sectorAddr (k : Sector) : Addr :=
  (k.zeroExtend 28 * BitVec.ofNat 28 sectorSize).truncate 24

end Sys2Proof.Machine
end

