-- ==== Sys2Proof/Syntax.lean ====
section
/-! DEFINITION. The instructions: one constructor for each row of spec/opcode_table.json. The first
sixteen are the host requests by command code (spec 30_encoding.md R97, R99), the last twelve the
wire frames (R84 to R95). Two rows share the mnemonic READ: `read` is the host operation, `readData`
the wire frame. -/

namespace Sys2Proof

/-- One constructor per row of the opcode table. A host operation carries the request fields it reads
(R98); a wire frame carries what its bytes carry (R81). -/
inductive Instr where
  /-- IDENTIFY (R142). -/
  | identify
  /-- READ, the host operation (R143). -/
  | read (addr : Addr) (rlen : Nat)
  /-- PROGRAM (R144). -/
  | program (addr : Addr) (wdata : List Byte)
  /-- ERASE_SECTOR (R145). -/
  | eraseSector (sector : Sector)
  /-- ERASE_CHIP (R146). -/
  | eraseChip
  /-- WRITE_SR (R148). -/
  | writeSr (sr1v : Byte) (sr2v : Byte)
  /-- WRITE_ENABLE (R149). -/
  | writeEnable
  /-- WRITE_DISABLE (R150). -/
  | writeDisable
  /-- READ_SR1 (R151). -/
  | readSr1
  /-- READ_SR2 (R152). -/
  | readSr2
  /-- INIT (R180 to R185). -/
  | init
  /-- Reserved code 0x0 (R99). -/
  | reserved0
  /-- Reserved code 0xC (R99). -/
  | reservedC
  /-- Reserved code 0xD (R99). -/
  | reservedD
  /-- Reserved code 0xE (R99). -/
  | reservedE
  /-- Reserved code 0xF (R99). -/
  | reservedF
  /-- Wire frame WREN, 0x06 (R84). -/
  | wren
  /-- Wire frame WRDI, 0x04 (R85). -/
  | wrdi
  /-- Wire frame RDSR1, 0x05 (R86). -/
  | rdsr1
  /-- Wire frame RDSR2, 0x35 (R87). -/
  | rdsr2
  /-- Wire frame WRSR, 0x01 (R88). -/
  | wrsr (d0 : Byte) (d1 : Byte)
  /-- Wire frame READ, 0x03 (R89). -/
  | readData (addr : Addr) (count : Nat)
  /-- Wire frame PP, 0x02 (R90). -/
  | pp (addr : Addr) (payload : List Byte)
  /-- Wire frame SE, 0x20 (R91). -/
  | se (addr : Addr)
  /-- Wire frame CE, 0xC7 (R92). -/
  | ce
  /-- Wire frame RSTEN, 0x66 (R93). -/
  | rsten
  /-- Wire frame RST, 0x99 (R94). -/
  | rst
  /-- Wire frame RDID, 0x9F (R95). -/
  | rdid
  deriving DecidableEq, Repr, Inhabited

end Sys2Proof
end

