-- ==== Sys2Proof/WellFormed.lean ====
section
/-! DEFINITION. Which requests, instructions and frames fit the fields the spec gives them
(spec 10_state.md R26, 30_encoding.md R83). The checks take `LEN_W` as an argument, so that they can
be tried on numerals; `Request.wf` and `Instr.wf` are the checks at the block's own `LEN_W`. -/

namespace Sys2Proof

/-- `rlen` fits `LEN_W` bits (R26). -/
def rlenFits (lenW n : Nat) : Bool := decide (n < 2 ^ lenW)

/-- A payload has at most `2^LEN_W - 1` bytes (R26). -/
def payloadFits (lenW : Nat) (bs : List Byte) : Bool := decide (bs.length ≤ 2 ^ lenW - 1)

/-- A sector address is a multiple of 4096 (R66, R83). -/
def sectorAligned (a : Addr) : Bool := decide (a.toNat % Machine.sectorSize = 0)

/-- A request whose fields have the widths of R26. -/
def Request.wfAt (lenW : Nat) (q : Request) : Bool :=
  rlenFits lenW q.rlen && payloadFits lenW q.wdata

/-- A well-formed request (R26). -/
def Request.wf (q : Request) : Bool := q.wfAt Config.lenW

/-- An instruction whose operands have the widths of R26, and for SE an address the block can
compute (R83). -/
def Instr.wfAt (lenW : Nat) : Instr → Bool
  | .identify => true
  | .read _ n => rlenFits lenW n
  | .program _ bs => payloadFits lenW bs
  | .eraseSector _ => true
  | .eraseChip => true
  | .writeSr _ _ => true
  | .writeEnable => true
  | .writeDisable => true
  | .readSr1 => true
  | .readSr2 => true
  | .init => true
  | .reserved0 => true
  | .reservedC => true
  | .reservedD => true
  | .reservedE => true
  | .reservedF => true
  | .wren => true
  | .wrdi => true
  | .rdsr1 => true
  | .rdsr2 => true
  | .wrsr _ _ => true
  | .readData _ n => rlenFits lenW n
  | .pp _ bs => payloadFits lenW bs
  | .se a => sectorAligned a
  | .ce => true
  | .rsten => true
  | .rst => true
  | .rdid => true

/-- A well-formed instruction. -/
def Instr.wf (i : Instr) : Bool := i.wfAt Config.lenW

end Sys2Proof
end

