-- ==== Sys2Proof/Decode.lean ====
section
/-! DEFINITION. Decoding and encoding (spec 30_encoding.md). A host request decodes by its `cmd`
(R97, R99); the bytes of one chip-select cycle decode by byte 0 and its format (R81, R100). Both are
total; bytes that are no frame are rejected by name. The encoder stands after the decoder and is
written from the same tables. -/

namespace Sys2Proof

/-! ### Host requests -/

/-- The operation a request selects, with the fields it reads (R97, R98). Every code decodes: the
reserved ones to a constructor each (R99). -/
def decodeRequest (q : Request) : Instr :=
  match q.cmd.toNat with
  | 0x1 => .identify
  | 0x2 => .read q.addr q.rlen
  | 0x3 => .program q.addr q.wdata
  | 0x4 => .eraseSector q.sector
  | 0x5 => .eraseChip
  | 0x6 => .writeSr q.sr1v q.sr2v
  | 0x7 => .writeEnable
  | 0x8 => .writeDisable
  | 0x9 => .readSr1
  | 0xA => .readSr2
  | 0xB => .init
  | 0xC => .reservedC
  | 0xD => .reservedD
  | 0xE => .reservedE
  | 0xF => .reservedF
  | _   => .reserved0

/-! ### Wire frames -/

/-- The format of a frame, told from byte 0 (R81, R100). -/
def formatOf (op : Byte) : Option Format :=
  match op.toNat with
  | 0x06 => some .wOp
  | 0x04 => some .wOp
  | 0xC7 => some .wOp
  | 0x66 => some .wOp
  | 0x99 => some .wOp
  | 0x05 => some .wOpRx1
  | 0x35 => some .wOpRx1
  | 0x9F => some .wOpRx3
  | 0x01 => some .wOpTx2
  | 0x20 => some .wOpA
  | 0x03 => some .wOpARxN
  | 0x02 => some .wOpATxN
  | _    => none

/-- The frame of a cycle from its command phase and its data phase: the opcode (R84 to R95) with
exactly the shape of its format (R81). -/
def decodeFrame (f : Frame) : Except DecodeError Instr :=
  match f.cmd with
  | [] => .error .emptyCycle
  | op :: args =>
    match op.toNat, args, f.data with
    | 0x06, [], .noData => .ok .wren
    | 0x04, [], .noData => .ok .wrdi
    | 0xC7, [], .noData => .ok .ce
    | 0x66, [], .noData => .ok .rsten
    | 0x99, [], .noData => .ok .rst
    | 0x05, [], .rx 1 => .ok .rdsr1
    | 0x35, [], .rx 1 => .ok .rdsr2
    | 0x9F, [], .rx 3 => .ok .rdid
    | 0x01, [], .tx [d0, d1] => .ok (.wrsr d0 d1)
    | 0x20, [a2, a1, a0], .noData => .ok (.se (Machine.addrOfBytes a2 a1 a0))
    | 0x03, [a2, a1, a0], .rx n => .ok (.readData (Machine.addrOfBytes a2 a1 a0) n)
    | 0x02, [a2, a1, a0], .tx ds => .ok (.pp (Machine.addrOfBytes a2 a1 a0) ds)
    | _, _, _ => if (formatOf op).isSome then .error (.wrongShape op) else .error (.unknownOpcode op)

/-- A reader of the wire splits the bytes of one chip-select cycle into its phases by the format
byte 0 tells (R81, R100). The bytes at receive positions are whatever the wire carried there. -/
def delimitCycle (bs : List Byte) : Except DecodeError Frame :=
  match bs with
  | [] => .error .emptyCycle
  | op :: rest =>
    match formatOf op with
    | none => .error (.unknownOpcode op)
    | some .wOp => if rest.length = 0 then .ok ⟨[op], .noData⟩ else .error (.wrongShape op)
    | some .wOpRx1 => if rest.length = 1 then .ok ⟨[op], .rx 1⟩ else .error (.wrongShape op)
    | some .wOpRx3 => if rest.length = 3 then .ok ⟨[op], .rx 3⟩ else .error (.wrongShape op)
    | some .wOpTx2 => if rest.length = 2 then .ok ⟨[op], .tx rest⟩ else .error (.wrongShape op)
    | some .wOpA => if rest.length = 3 then .ok ⟨op :: rest, .noData⟩ else .error (.wrongShape op)
    | some .wOpARxN =>
      if 3 ≤ rest.length then .ok ⟨op :: rest.take 3, .rx (rest.length - 3)⟩
      else .error (.wrongShape op)
    | some .wOpATxN =>
      if 3 ≤ rest.length then .ok ⟨op :: rest.take 3, .tx (rest.drop 3)⟩
      else .error (.wrongShape op)

/-- The frame whose bytes one chip-select cycle carried (R81, R100). -/
def decodeCycle (bs : List Byte) : Except DecodeError Instr :=
  match delimitCycle bs with
  | .error e => .error e
  | .ok f => decodeFrame f

/-- Decoding of either kind of encoded instruction. -/
def decode (c : Code) : Except DecodeError Instr :=
  match c with
  | .request q => .ok (decodeRequest q)
  | .frame f => decodeFrame f

/-! ### The encoder -/

/-- WREN (R84). -/
def frameWren : Frame := ⟨[0x06], .noData⟩

/-- WRDI (R85). -/
def frameWrdi : Frame := ⟨[0x04], .noData⟩

/-- RDSR1 (R86). -/
def frameRdsr1 : Frame := ⟨[0x05], .rx 1⟩

/-- RDSR2 (R87). -/
def frameRdsr2 : Frame := ⟨[0x35], .rx 1⟩

/-- WRSR (R88). -/
def frameWrsr (d0 d1 : Byte) : Frame := ⟨[0x01], .tx [d0, d1]⟩

/-- READ (R89). -/
def frameRead (a : Addr) (n : Nat) : Frame := ⟨0x03 :: Machine.addrBytes a, .rx n⟩

/-- PP (R90). -/
def framePp (a : Addr) (ds : List Byte) : Frame := ⟨0x02 :: Machine.addrBytes a, .tx ds⟩

/-- SE (R91). -/
def frameSe (a : Addr) : Frame := ⟨0x20 :: Machine.addrBytes a, .noData⟩

/-- CE (R92). -/
def frameCe : Frame := ⟨[0xC7], .noData⟩

/-- RSTEN (R93). -/
def frameRsten : Frame := ⟨[0x66], .noData⟩

/-- RST (R94). -/
def frameRst : Frame := ⟨[0x99], .noData⟩

/-- RDID (R95). -/
def frameRdid : Frame := ⟨[0x9F], .rx 3⟩

/-- A request with only a command code, every other field zero. -/
def requestOfCmd (c : Cmd) : Request := { Request.zero with cmd := c }

/-- The encoding of an instruction: a host operation as the request with its code and the fields it
reads, the others zero (R97, R98); a wire frame as its bytes (R84 to R95). -/
def encode (i : Instr) : Code :=
  match i with
  | .identify => .request (requestOfCmd 0x1)
  | .read a n => .request { requestOfCmd 0x2 with addr := a, rlen := n }
  | .program a ds => .request { requestOfCmd 0x3 with addr := a, wdata := ds }
  | .eraseSector k => .request { requestOfCmd 0x4 with sector := k }
  | .eraseChip => .request (requestOfCmd 0x5)
  | .writeSr v1 v2 => .request { requestOfCmd 0x6 with sr1v := v1, sr2v := v2 }
  | .writeEnable => .request (requestOfCmd 0x7)
  | .writeDisable => .request (requestOfCmd 0x8)
  | .readSr1 => .request (requestOfCmd 0x9)
  | .readSr2 => .request (requestOfCmd 0xA)
  | .init => .request (requestOfCmd 0xB)
  | .reserved0 => .request (requestOfCmd 0x0)
  | .reservedC => .request (requestOfCmd 0xC)
  | .reservedD => .request (requestOfCmd 0xD)
  | .reservedE => .request (requestOfCmd 0xE)
  | .reservedF => .request (requestOfCmd 0xF)
  | .wren => .frame frameWren
  | .wrdi => .frame frameWrdi
  | .rdsr1 => .frame frameRdsr1
  | .rdsr2 => .frame frameRdsr2
  | .wrsr d0 d1 => .frame (frameWrsr d0 d1)
  | .readData a n => .frame (frameRead a n)
  | .pp a ds => .frame (framePp a ds)
  | .se a => .frame (frameSe a)
  | .ce => .frame frameCe
  | .rsten => .frame frameRsten
  | .rst => .frame frameRst
  | .rdid => .frame frameRdid

/-- The bytes one whole cycle of a frame puts on the wire toward the chip: the command phase, then
the sent bytes or the fill byte at each receive position (R81, R112, R114). -/
def cycleBytes (fill : Byte) (f : Frame) : List Byte :=
  match f.data with
  | .noData => f.cmd
  | .tx ds => f.cmd ++ ds
  | .rx k => f.cmd ++ List.replicate k fill

/-- The number of bytes a frame sends (R68). -/
def bytesSent (f : Frame) : Nat :=
  match f.data with
  | .noData => f.cmd.length
  | .tx ds => f.cmd.length + ds.length
  | .rx _ => f.cmd.length

/-- The number of bytes a frame receives (R68). -/
def bytesReceived (f : Frame) : Nat :=
  match f.data with
  | .noData => 0
  | .tx _ => 0
  | .rx k => k

/-- A frame with an opcode of the mutating set 0x01, 0x02, 0x20, 0xC7 (R96). -/
def mutatingCmd (cmd : List Byte) : Bool :=
  match cmd with
  | [] => false
  | op :: _ => decide (op = 0x01 ∨ op = 0x02 ∨ op = 0x20 ∨ op = 0xC7)

/-! ### The opcode table's own numbering -/

/-- The fewest bytes a cycle of an opcode carries (R81). -/
def shortestCycle (op : Byte) : Nat :=
  match formatOf op with
  | none => 1
  | some .wOp => 1
  | some .wOpRx1 => 2
  | some .wOpRx3 => 4
  | some .wOpTx2 => 3
  | some .wOpA => 4
  | some .wOpARxN => 4
  | some .wOpATxN => 4

/-- The first `n` bytes of a word, byte 0 its least significant eight bits. -/
def bytesOfWord (n w : Nat) : List Byte :=
  (List.range n).map fun k => BitVec.ofNat 8 (w / 2 ^ (8 * k))

/-- The instruction of one table word. The table's two encodings overlap: a host request's `cmd` is
bits 3..0 and nothing tells it from an opcode byte below 0x10. A word below 16, or of fewer than 8
bits, is read as a host request, every other one as the bytes of a cycle, zeros following (DESIGN CHOICE,
log entry 14). -/
def decodeTableWord (nbits w : Nat) : Option Instr :=
  if nbits < 8 ∨ w < 16 then
    some (decodeRequest (requestOfCmd (BitVec.ofNat 4 w)))
  else
    let bs := bytesOfWord (nbits / 8) w
    let bs := bs ++ List.replicate (shortestCycle (BitVec.ofNat 8 w) - bs.length) 0
    match decodeCycle bs with
    | .ok i => some i
    | .error _ => none

end Sys2Proof
end

