-- ==== Sys2Proof/Machine/Flags.lean ====
section
/-! DEFINITION. Every flag the block computes: WIP and WEL of a status byte (spec 10_state.md R33),
the identity match (43_lifecycle.md R183), and the codes of `result` and `cause` (R31, R32). -/

namespace Sys2Proof.Machine

/-- `WIP_BIT` (R6, R33). -/
def wipBit : Nat := 0

/-- `WEL_BIT` (R6, R33). -/
def welBit : Nat := 1

/-- `ID_MFR` (R6, R183). -/
def idMfr : Byte := 0xEF

/-- `ID_TYPE` (R6, R183). -/
def idType : Byte := 0x40

/-- `ID_CAP` (R6, R183). -/
def idCap : Byte := 0x17

/-- `WIP(s) = s[0]` (R33). -/
def wip (s : Byte) : Bool := s.getLsbD wipBit

/-- `WEL(s) = s[1]` (R33). -/
def wel (s : Byte) : Bool := s.getLsbD welBit

/-- `IdMatch(rx)`: an exact match of the three bytes in receive order (R183). -/
def idMatch (rx : List Byte) : Bool :=
  decide (rx = [idMfr, idType, idCap])

/-- The 2-bit code of `result` (R31). -/
def resultCode : Result → BitVec 2
  | .ok => 0b00
  | .error => 0b01
  | .busy => 0b10

/-- The result a 2-bit code names; 0b11 is reserved (R31). -/
def resultOfCode (c : BitVec 2) : Option Result :=
  if c = 0b00 then some .ok
  else if c = 0b01 then some .error
  else if c = 0b10 then some .busy
  else none

/-- The 2-bit code of `cause` (R32). -/
def causeCode : Cause → BitVec 2
  | .noCause => 0b00
  | .transaction => 0b01
  | .idMismatch => 0b10
  | .illegalCmd => 0b11

/-- The cause a 2-bit code names (R32). -/
def causeOfCode (c : BitVec 2) : Cause :=
  if c = 0b00 then .noCause
  else if c = 0b01 then .transaction
  else if c = 0b10 then .idMismatch
  else .illegalCmd

end Sys2Proof.Machine
end

