-- ==== Sys2Proof/Machine/State.lean ====
section
/-! DEFINITION. The machine's state as plain data (spec 10_state.md R20 to R39), the state right after
reset, and the reasons a step can stop. -/

namespace Sys2Proof.Machine

/-- One table of slots, one slot per host: only full slots are listed, by rising host number. -/
abbrev Slots (α : Type) := List (Nat × α)

/-- The block's state (R20) and, last, the model's own three fields. -/
structure State where
  /-- `cs_n`: 0 selected, 1 deselected (R22). -/
  csN     : BitVec 1
  /-- The host the engine is granted to (R23). -/
  owner   : Option Nat
  /-- The sequencer's position (R24). -/
  stage   : Stage
  /-- The request latched at grant (R25). -/
  op      : Request
  /-- `pend`: posted and unanswered requests (R28). -/
  pend    : Slots Request
  /-- `resp`: untaken responses (R29). -/
  resp    : Slots Response
  /-- The events emitted, oldest first (R38). -/
  trace   : List Event
  /-- MODEL: what the oracle answers to the next calls, in order (R36; DESIGN CHOICE, log entry 4). -/
  answers : List Answer
  /-- MODEL: how many oracle answers have been used (DESIGN CHOICE, log entry 4). -/
  draws   : Nat
  /-- MODEL: which agent moves next, in order; the engine when empty (R11; DESIGN CHOICE, log entry 1). -/
  turns   : List Turn
  deriving DecidableEq, Repr

/-- The machine right after a block reset with an empty trace before it (R39, R240). `op` is
unspecified there; the model names the zero request (DESIGN CHOICE, log entry 10). -/
def State.reset : State :=
  { csN := 1
    owner := none
    stage := .idle
    op := Request.zero
    pend := []
    resp := []
    trace := [.reset]
    answers := []
    draws := 0
    turns := [] }

/-- Why a step stops. The block itself has no fault (R210): each of these stands for a state or a
call that no run from reset reaches, and stopping there is SAFE (DESIGN CHOICE, log entry 17). -/
inductive Fault where
  /-- Raised by the meaning of a wire frame when no host owns the engine: `owner` is none exactly
  when `stage = IDLE` (R23), and no frame is sent then (R119). SAFE. -/
  | noOwner
  /-- Raised by a meaning asked to run although it is not what the arbiter (R192) or the sequencer
  (R140) hands over in this state. SAFE. -/
  | notFetched
  /-- Raised by the engine step and by a host operation's meaning in a stage that the operation's row
  of R140 does not have. SAFE. -/
  | noSuchStage
  deriving DecidableEq, Repr

/-- Why an instruction has no meaning. -/
inductive Refusal where
  /-- Raised by `exec` only, for an instruction not modelled yet. SAFE. -/
  | notModelled (mnemonic : String)
  deriving DecidableEq, Repr

/-- The outcome of a meaning. -/
abbrev Out := Host.Outcome State Fault Refusal

end Sys2Proof.Machine
end

