-- ==== Sys2Proof/Machine/Ops.lean ====
section
/-! DEFINITION. The named operations over the state: the slot tables, the chip-select line and the
trace, the oracle, one whole transaction (spec 40_transaction.md), the end of an operation
(44_arbiter.md R195) and the error path (60_exceptions.md R215). -/

namespace Sys2Proof.Machine

/-! ### Slot tables -/

/-- The slot of host `h`, or none when it is empty. -/
def slotGet {α : Type} (t : Slots α) (h : Nat) : Option α :=
  match t with
  | [] => none
  | (k, v) :: rest => if k = h then some v else slotGet rest h

/-- Fill the slot of host `h`, at its place in rising order. -/
def slotPut {α : Type} (t : Slots α) (h : Nat) (x : α) : Slots α :=
  match t with
  | [] => [(h, x)]
  | (k, v) :: rest =>
    if h < k then (h, x) :: (k, v) :: rest
    else if h = k then (h, x) :: rest
    else (k, v) :: slotPut rest h x

/-- Empty the slot of host `h`. -/
def slotClear {α : Type} (t : Slots α) (h : Nat) : Slots α :=
  t.filter fun p => p.1 != h

/-- The canonical form: host numbers strictly rising. -/
abbrev slotsWf {α : Type} (t : Slots α) : Prop := (t.map Prod.fst).Pairwise (· < ·)

/-! ### Elements of the state -/

/-- `Select()`: chip-select active (R110). -/
def State.select (s : State) : State := { s with csN := 0 }

/-- `Deselect()`: chip-select inactive (R110). -/
def State.deselect (s : State) : State := { s with csN := 1 }

/-- Emit an event: it becomes the last of the trace (R38). -/
def State.emit (s : State) (e : Event) : State := { s with trace := s.trace ++ [e] }

/-- `stage <- st` (R24). -/
def State.goto (s : State) (st : Stage) : State := { s with stage := st }

/-- The grant's latching: `owner <- h`, `op <- q` (R192). -/
def State.latch (s : State) (h : Nat) (q : Request) : State := { s with owner := some h, op := q }

/-- Release the engine: `owner <- none`, `stage <- IDLE` (R195). -/
def State.release (s : State) : State := { s with owner := none, stage := .idle }

/-- `pend[h] <- q` (R191). -/
def State.fillPend (s : State) (h : Nat) (q : Request) : State := { s with pend := slotPut s.pend h q }

/-- `pend[h] <- none` (R195). -/
def State.clearPend (s : State) (h : Nat) : State := { s with pend := slotClear s.pend h }

/-- `resp[h] <- r` (R195). -/
def State.fillResp (s : State) (h : Nat) (r : Response) : State := { s with resp := slotPut s.resp h r }

/-- `resp[h] <- none` (R196). -/
def State.clearResp (s : State) (h : Nat) : State := { s with resp := slotClear s.resp h }

/-- The agenda of agents is read up to `rest` (R11; DESIGN CHOICE, log entry 1). -/
def State.setTurns (s : State) (rest : List Turn) : State := { s with turns := rest }

/-! ### The oracle (R36; DESIGN CHOICE, log entry 4) -/

/-- What the oracle answers to the next call: the first of the listed answers, or, when none is
listed, a free count and no listed byte. -/
def answerTo (ask : Ask) (s : State) : Answer :=
  match s.answers with
  | [] => { count := Config.oracleCount s.draws s.trace ask, bytes := [] }
  | a :: _ => a

/-- The answer is used up. -/
def State.consume (s : State) : State := { s with answers := s.answers.tail, draws := s.draws + 1 }

/-- Byte `k` of an answer: the listed one, or a free byte (R112). -/
def answerByte (ask : Ask) (s : State) (k : Nat) : Byte :=
  (answerTo ask s).bytes.getD k (Config.oracleByte s.draws s.trace ask k)

/-- The `n` bytes of an answer (R112: when the count is right, the list has that many bytes). -/
def answerBytes (ask : Ask) (s : State) (n : Nat) : List Byte :=
  (List.range n).map (answerByte ask s)

/-- `Transmit(bs)`: the transferred count (R111). -/
def transmit (bs : List Byte) (s : State) : Nat × State :=
  ((answerTo (.transmit bs) s).count, s.consume)

/-- `Receive(k)`: the transferred count and `k` bytes (R112). -/
def receive (k : Nat) (s : State) : (Nat × List Byte) × State :=
  (((answerTo (.receive k) s).count, answerBytes (.receive k) s k), s.consume)

/-- `draw_byte()`: a free status byte (R127). -/
def drawByte (s : State) : Byte × State :=
  (answerByte .statusByte s 0, s.consume)

/-! ### One chip-select cycle -/

/-- The end of a cycle: chip-select rises and the one `Txn` event is emitted (R113, R117). -/
def endCycle (h : Nat) (f : Frame) (n1 : Nat) (n2 : Option Nat) (rx : List Byte) (ok : Bool)
    (s : State) : State :=
  s.deselect.emit (.txn h s.stage f.cmd f.data n1 n2 rx ok)

/-- The data phase, after a command phase with a full count (R113; R115 for length 0). -/
def dataPhase (h : Nat) (f : Frame) (n1 : Nat) (s : State) : XferResult × State :=
  match f.data with
  | .noData => (.ok [], endCycle h f n1 none [] true s)
  | .tx ds =>
    if ds.length = 0 then (.ok [], endCycle h f n1 none [] true s)
    else
      let r := transmit ds s
      if r.1 = ds.length then (.ok [], endCycle h f n1 (some r.1) [] true r.2)
      else (.fail, endCycle h f n1 (some r.1) [] false r.2)
  | .rx k =>
    if k = 0 then (.ok [], endCycle h f n1 none [] true s)
    else
      let r := receive k s
      if r.1.1 = k then (.ok r.1.2, endCycle h f n1 (some r.1.1) r.1.2 true r.2)
      else (.fail, endCycle h f n1 (some r.1.1) [] false r.2)

/-- `XFER(cmd, data)`: one whole transaction for owner `h` (R113). -/
def xfer (h : Nat) (f : Frame) (s : State) : XferResult × State :=
  let r := transmit f.cmd s.select
  if r.1 = f.cmd.length then dataPhase h f r.1 r.2
  else (.fail, endCycle h f r.1 none [] false r.2)

/-! ### The end of an operation -/

/-- `Respond(result, cause, rdata)` for owner `h` (R195). -/
def respond (h : Nat) (result : Result) (cause : Cause) (rdata : List Byte) (s : State) : State :=
  let r : Response := { result := result, cause := cause, rdata := rdata }
  (((s.fillResp h r).clearPend h).emit (.resp h r)).release

/-- `raise OpError(cause)`: the block's one error path, with no return (R215, R218). -/
def opError (h : Nat) (cause : Cause) (s : State) : State :=
  respond h .error cause [] s

end Sys2Proof.Machine
end

