-- ==== Sys2Proof/Machine/Sequencer.lean ====
section
/-! DEFINITION. The operation sequencer (spec 42_operations.md R140): the stage row of each operation,
its first and next stage, and the frame a stage sends. -/

namespace Sys2Proof.Machine

/-- The operations, as opposed to the wire frames and the reserved codes. -/
def isOperation (i : Instr) : Bool :=
  match i with
  | .identify => true
  | .read _ _ => true
  | .program _ _ => true
  | .eraseSector _ => true
  | .eraseChip => true
  | .writeSr _ _ => true
  | .writeEnable => true
  | .writeDisable => true
  | .readSr1 => true
  | .readSr2 => true
  | .init => true
  | .reserved0 => false
  | .reservedC => false
  | .reservedD => false
  | .reservedE => false
  | .reservedF => false
  | .wren => false
  | .wrdi => false
  | .rdsr1 => false
  | .rdsr2 => false
  | .wrsr _ _ => false
  | .readData _ _ => false
  | .pp _ _ => false
  | .se _ => false
  | .ce => false
  | .rsten => false
  | .rst => false
  | .rdid => false

/-- The row of R140 for an operation; `wait` is `WRSR_WAIT`. A reserved code has no row (R194). -/
def stageRow (wait : Bool) (i : Instr) : List Stage :=
  match i with
  | .identify => [.frame]
  | .read _ _ => [.preBg, .frame]
  | .program _ _ => [.preBg, .wgWren, .wgPoll, .frame]
  | .eraseSector _ => [.preBg, .wgWren, .wgPoll, .frame, .postBg]
  | .eraseChip => [.preBg, .wgWren, .wgPoll, .frame, .postBg]
  | .writeSr _ _ =>
    if wait then [.preBg, .wgWren, .wgPoll, .frame] else [.wgWren, .wgPoll, .frame]
  | .writeEnable => [.frame]
  | .writeDisable => [.frame]
  | .readSr1 => [.frame]
  | .readSr2 => [.frame]
  | .init => [.rsten, .rst, .frame]
  | .reserved0 => []
  | .reservedC => []
  | .reservedD => []
  | .reservedE => []
  | .reservedF => []
  | .wren => []
  | .wrdi => []
  | .rdsr1 => []
  | .rdsr2 => []
  | .wrsr _ _ => []
  | .readData _ _ => []
  | .pp _ _ => []
  | .se _ => []
  | .ce => []
  | .rsten => []
  | .rst => []
  | .rdid => []

/-- The entry after `st` in a row, or none (END) when `st` is the last. -/
def entryAfter (st : Stage) (row : List Stage) : Option Stage :=
  match row with
  | [] => none
  | x :: rest => if x = st then rest.head? else entryAfter st rest

/-- `first(cmd)` (R140). -/
def firstStage (wait : Bool) (i : Instr) : Option Stage := (stageRow wait i).head?

/-- `next(cmd, stage)`; none is END (R140). -/
def nextStage (wait : Bool) (i : Instr) (st : Stage) : Option Stage := entryAfter st (stageRow wait i)

/-- The frame of an operation's own `FRAME` stage (R142 to R152, R182). -/
def ownFrame (i : Instr) : Option Instr :=
  match i with
  | .identify => some .rdid
  | .read a n => some (.readData a n)
  | .program a ds => some (.pp a ds)
  | .eraseSector k => some (.se (sectorAddr k))
  | .eraseChip => some .ce
  | .writeSr v1 v2 => some (.wrsr v1 v2)
  | .writeEnable => some .wren
  | .writeDisable => some .wrdi
  | .readSr1 => some .rdsr1
  | .readSr2 => some .rdsr2
  | .init => some .rdid
  | .reserved0 => none
  | .reservedC => none
  | .reservedD => none
  | .reservedE => none
  | .reservedF => none
  | .wren => none
  | .wrdi => none
  | .rdsr1 => none
  | .rdsr2 => none
  | .wrsr _ _ => none
  | .readData _ _ => none
  | .pp _ _ => none
  | .se _ => none
  | .ce => none
  | .rsten => none
  | .rst => none
  | .rdid => none

/-- The frame an operation sends in a stage of its row (R24, R119, R140). -/
def stageFrame (wait : Bool) (i : Instr) (st : Stage) : Option Instr :=
  if st ∈ stageRow wait i then
    match st with
    | .idle => none
    | .preBg => some .rdsr1
    | .wgWren => some .wren
    | .wgPoll => some .rdsr1
    | .frame => ownFrame i
    | .postBg => some .rdsr1
    | .rsten => some .rsten
    | .rst => some .rst
  else none

/-- The operation being served: what the latched request selects (R25, R97). -/
def currentOp (s : State) : Instr := decodeRequest s.op

/-- The frame the sequencer sends in this state. -/
def currentFrame (s : State) : Option Instr := stageFrame Config.wrsrWait (currentOp s) s.stage

/-- The stage is done: go to the next one, or, at END, answer OK with `rdata` (R140). -/
def advance (h : Nat) (rdata : List Byte) (s : State) : State :=
  match nextStage Config.wrsrWait (currentOp s) s.stage with
  | some st => s.goto st
  | none => respond h .ok .noCause rdata s

end Sys2Proof.Machine
end

