-- ==== Sys2Proof/Machine/Arbiter.lean ====
section
/-! DEFINITION. The chip-select arbiter (spec 44_arbiter.md): which pending host is granted, the grant
step, and the host steps post and take; the block reset (70_reset_and_hazards.md R240). -/

namespace Sys2Proof.Machine

/-- `P`: the hosts with a posted request (R192). -/
def pendingHosts (s : State) : List Nat := s.pend.map Prod.fst

/-- `ARB_POLICY(P, trace)`, held to a member of `P` (R198): with one pending host there is no choice,
with more the free policy chooses, and a value outside `P` is no legal policy's (DESIGN CHOICE, log entry 8). -/
def arbPick (hosts : List Nat) (trace : List Event) : Option Nat :=
  match hosts with
  | [] => none
  | [h] => some h
  | h :: h' :: rest =>
    if Config.arbPolicy (h :: h' :: rest) trace ∈ h :: h' :: rest then
      some (Config.arbPolicy (h :: h' :: rest) trace)
    else some h

/-- The host the arbiter would grant now, with its request; none when no host has posted (R192). -/
def arbitrate (s : State) : Option (Nat × Request) :=
  match arbPick (pendingHosts s) s.trace with
  | none => none
  | some h =>
    match slotGet s.pend h with
    | none => none
    | some q => some (h, q)

/-- `step_GRANT` for host `h` with request `q` (R192): latch and emit, then the operation's first
stage, or, for a reserved code, the answer ILLEGAL_CMD in the same step (R194). -/
def grantTo (wait : Bool) (h : Nat) (q : Request) (s : State) : State :=
  let t := (s.latch h q).emit (.grant h q)
  match firstStage wait (decodeRequest q) with
  | some st => t.goto st
  | none => opError h .illegalCmd t

/-- The grant of the host operation `i`: it runs when the arbiter hands over a request that selects
`i`. -/
def grant (i : Instr) (s : State) : Out :=
  match arbitrate s with
  | none => .fault .notFetched
  | some (h, q) =>
    if decodeRequest q = i then .next (grantTo Config.wrsrWait h q s) else .fault .notFetched

/-- Whether host `h` may post `q`: the port exists, both its slots are empty (R190, R191), and the
request has the widths of R26. -/
def mayPost (nHosts lenW h : Nat) (q : Request) (s : State) : Bool :=
  decide (h < nHosts) && q.wfAt lenW && (slotGet s.pend h).isNone && (slotGet s.resp h).isNone

/-- Host `h` posts `q` when it may (R191); a turn that is not enabled changes nothing (DESIGN CHOICE, log entry 2). -/
def post (nHosts lenW h : Nat) (q : Request) (s : State) : State :=
  if mayPost nHosts lenW h q s then s.fillPend h q else s

/-- What host `h` gets when it takes (R196); none when its slot is empty. -/
def taken (h : Nat) (s : State) : Option Response := slotGet s.resp h

/-- Host `h` takes its response (R196); a turn that is not enabled changes nothing (DESIGN CHOICE, log entry 2). -/
def take (h : Nat) (s : State) : State :=
  match taken h s with
  | none => s
  | some _ => s.clearResp h

/-- A block reset (R39, R240): every element at its reset value, `Reset` after the trace so far; `op`
keeps its last value, which no rule reads (R25; DESIGN CHOICE, log entry 10). The oracle and the agenda lie outside
the block. -/
def blockReset (s : State) : State :=
  { s with
    csN := 1
    owner := none
    stage := .idle
    pend := []
    resp := []
    trace := s.trace ++ [.reset] }

end Sys2Proof.Machine
end

