-- ==== Sys2Proof/Machine/Gates.lean ====
section
/-! DEFINITION. The busy-gate and the write-gate (spec 41_gates.md R120 to R130), each one step at a
time. The policy is an argument, so that both of its values can be tried; the meanings pass
`Config.gateErrPolicy`. -/

namespace Sys2Proof.Machine

/-- The busy-gate's decision on a status byte: READY proceeds, else the same stage polls again
(R121, R128). At END the erase operations answer with no data (R140). -/
def busyDecide (h : Nat) (b : Byte) (s : State) : State :=
  if wip b then s else advance h [] s

/-- The write-gate's decision on a status byte: ENABLED proceeds, else back to the enable half
(R124, R128). -/
def wgDecide (h : Nat) (b : Byte) (s : State) : State :=
  if wel b then advance h [] s else s.goto .wgWren

/-- A gate's poll: the RDSR1 frame and a decision on its byte; on a failed poll `ABORT` raises
TRANSACTION and `IGNORE` decides on a free byte (R121, R124, R126, R127). -/
def gatePoll (pol : GatePolicy) (decideOn : Nat → Byte → State → State) (h : Nat) (s : State) : State :=
  let r := xfer h frameRdsr1 s
  match r.1, pol with
  | .ok rx, _ => decideOn h (rx.headD 0) r.2
  | .fail, .abort => opError h .transaction r.2
  | .fail, .ignore => decideOn h (drawByte r.2).1 (drawByte r.2).2

/-- `step_BG` (R121). -/
def busyPoll (pol : GatePolicy) (h : Nat) (s : State) : State := gatePoll pol busyDecide h s

/-- `step_WG_POLL` (R124). -/
def wgPoll (pol : GatePolicy) (h : Nat) (s : State) : State := gatePoll pol wgDecide h s

/-- `step_WG_WREN` (R123): the WREN frame, then on to the poll half; a failed one raises TRANSACTION
under `ABORT` and is treated as sent under `IGNORE` (R126, R127). -/
def wgEnable (pol : GatePolicy) (h : Nat) (s : State) : State :=
  let r := xfer h frameWren s
  match r.1, pol with
  | .fail, .abort => opError h .transaction r.2
  | .fail, .ignore => r.2.goto .wgPoll
  | .ok _, _ => r.2.goto .wgPoll

/-- An operation's own frame step, and INIT's RSTEN and RST: a failure raises TRANSACTION whatever the
gate policy is (R141, R211); else the stage is done, with the received bytes as the data (R140). -/
def frameStep (h : Nat) (f : Frame) (s : State) : State :=
  let r := xfer h f s
  match r.1 with
  | .fail => opError h .transaction r.2
  | .ok rx => advance h rx r.2

/-- INIT's FRAME step: the identity is read and compared (R182, R183). -/
def initIdentity (h : Nat) (s : State) : State :=
  let r := xfer h frameRdid s
  match r.1 with
  | .fail => opError h .transaction r.2
  | .ok rx =>
    if idMatch rx then respond h .ok .noCause rx r.2
    else respond h .error .idMismatch rx r.2

end Sys2Proof.Machine
end

