-- ==== Sys2Proof/Machine/Frames.lean ====
section
/-! DEFINITION. The meanings of the twelve wire frames: the engine step that sends the frame (spec
30_encoding.md R84 to R95, 40_transaction.md R119), which is one transaction and the decision of the
stage it belongs to. A frame runs when it is the one the sequencer sends. -/

namespace Sys2Proof.Machine

/-- The engine step that sends frame `i`, for the owner: what every meaning of this file is made of. -/
def sending (i : Instr) (s : State) (k : Nat → State) : Out :=
  match s.owner with
  | none => .fault .noOwner
  | some h => if currentFrame s = some i then .next (k h) else .fault .notFetched

/-- WREN (R84): the write-gate's enable half (R123), or WRITE_ENABLE's own frame (R149). -/
def execWren (s : State) : Out :=
  sending .wren s fun h =>
    if s.stage = .wgWren then wgEnable Config.gateErrPolicy h s else frameStep h frameWren s

/-- WRDI (R85): WRITE_DISABLE's own frame (R150). -/
def execWrdi (s : State) : Out := sending .wrdi s fun h => frameStep h frameWrdi s

/-- RDSR1 (R86): a busy-gate poll (R121), a write-gate poll (R124), or READ_SR1's own frame (R151). -/
def execRdsr1 (s : State) : Out :=
  sending .rdsr1 s fun h =>
    if s.stage = .frame then frameStep h frameRdsr1 s
    else if s.stage = .wgPoll then wgPoll Config.gateErrPolicy h s
    else busyPoll Config.gateErrPolicy h s

/-- RDSR2 (R87): READ_SR2's own frame (R152). -/
def execRdsr2 (s : State) : Out := sending .rdsr2 s fun h => frameStep h frameRdsr2 s

/-- WRSR (R88): WRITE_SR's own frame (R148). -/
def execWrsr (d0 d1 : Byte) (s : State) : Out :=
  sending (.wrsr d0 d1) s fun h => frameStep h (frameWrsr d0 d1) s

/-- READ (R89): the READ operation's own frame (R143). -/
def execReadData (a : Addr) (n : Nat) (s : State) : Out :=
  sending (.readData a n) s fun h => frameStep h (frameRead a n) s

/-- PP (R90): PROGRAM's own frame (R144). -/
def execPp (a : Addr) (ds : List Byte) (s : State) : Out :=
  sending (.pp a ds) s fun h => frameStep h (framePp a ds) s

/-- SE (R91): ERASE_SECTOR's own frame (R145). -/
def execSe (a : Addr) (s : State) : Out := sending (.se a) s fun h => frameStep h (frameSe a) s

/-- CE (R92): ERASE_CHIP's own frame (R146). -/
def execCe (s : State) : Out := sending .ce s fun h => frameStep h frameCe s

/-- RSTEN (R93): INIT's first step (R180). -/
def execRsten (s : State) : Out := sending .rsten s fun h => frameStep h frameRsten s

/-- RST (R94): INIT's second step (R181). -/
def execRst (s : State) : Out := sending .rst s fun h => frameStep h frameRst s

/-- RDID (R95): IDENTIFY's own frame (R142), or INIT's third step (R182). -/
def execRdid (s : State) : Out :=
  sending .rdid s fun h =>
    if currentOp s = .init then initIdentity h s else frameStep h frameRdid s

end Sys2Proof.Machine
end

