-- ==== Sys2Proof/Machine/Operations.lean ====
section
/-! DEFINITION. The meanings of the host operations (spec 42_operations.md, 43_lifecycle.md): the
engine step of the operation in the current stage. At IDLE it is the grant of a request that selects
the operation (44_arbiter.md R192); in every later stage of the operation's row (R140) it is the wire
frame of that stage. -/

namespace Sys2Proof.Machine

/-- One engine step of host operation `i`: the grant at IDLE, else `run` at the stage, when the
latched request selects `i`. -/
def operation (i : Instr) (s : State) (run : Stage → Out) : Out :=
  if s.stage = .idle then grant i s
  else if currentOp s = i then run s.stage
  else .fault .notFetched

/-- IDENTIFY: FRAME (R142). -/
def execIdentify (s : State) : Out :=
  operation .identify s fun st =>
    match st with
    | .frame => execRdid s
    | _ => .fault .noSuchStage

/-- READ: PRE_BG, FRAME (R143). -/
def execRead (a : Addr) (n : Nat) (s : State) : Out :=
  operation (.read a n) s fun st =>
    match st with
    | .preBg => execRdsr1 s
    | .frame => execReadData a n s
    | _ => .fault .noSuchStage

/-- PROGRAM: PRE_BG, WG_WREN, WG_POLL, FRAME (R144). -/
def execProgram (a : Addr) (ds : List Byte) (s : State) : Out :=
  operation (.program a ds) s fun st =>
    match st with
    | .preBg => execRdsr1 s
    | .wgWren => execWren s
    | .wgPoll => execRdsr1 s
    | .frame => execPp a ds s
    | _ => .fault .noSuchStage

/-- ERASE_SECTOR: PRE_BG, WG_WREN, WG_POLL, FRAME, POST_BG (R145). -/
def execEraseSector (k : Sector) (s : State) : Out :=
  operation (.eraseSector k) s fun st =>
    match st with
    | .preBg => execRdsr1 s
    | .wgWren => execWren s
    | .wgPoll => execRdsr1 s
    | .frame => execSe (sectorAddr k) s
    | .postBg => execRdsr1 s
    | _ => .fault .noSuchStage

/-- ERASE_CHIP: PRE_BG, WG_WREN, WG_POLL, FRAME, POST_BG (R146). -/
def execEraseChip (s : State) : Out :=
  operation .eraseChip s fun st =>
    match st with
    | .preBg => execRdsr1 s
    | .wgWren => execWren s
    | .wgPoll => execRdsr1 s
    | .frame => execCe s
    | .postBg => execRdsr1 s
    | _ => .fault .noSuchStage

/-- WRITE_SR: WG_WREN, WG_POLL, FRAME, with PRE_BG first when `WRSR_WAIT` is true (R148). -/
def execWriteSr (v1 v2 : Byte) (s : State) : Out :=
  operation (.writeSr v1 v2) s fun st =>
    match st with
    | .preBg => if Config.wrsrWait then execRdsr1 s else .fault .noSuchStage
    | .wgWren => execWren s
    | .wgPoll => execRdsr1 s
    | .frame => execWrsr v1 v2 s
    | _ => .fault .noSuchStage

/-- WRITE_ENABLE: FRAME (R149). -/
def execWriteEnable (s : State) : Out :=
  operation .writeEnable s fun st =>
    match st with
    | .frame => execWren s
    | _ => .fault .noSuchStage

/-- WRITE_DISABLE: FRAME (R150). -/
def execWriteDisable (s : State) : Out :=
  operation .writeDisable s fun st =>
    match st with
    | .frame => execWrdi s
    | _ => .fault .noSuchStage

/-- READ_SR1: FRAME (R151). -/
def execReadSr1 (s : State) : Out :=
  operation .readSr1 s fun st =>
    match st with
    | .frame => execRdsr1 s
    | _ => .fault .noSuchStage

/-- READ_SR2: FRAME (R152). -/
def execReadSr2 (s : State) : Out :=
  operation .readSr2 s fun st =>
    match st with
    | .frame => execRdsr2 s
    | _ => .fault .noSuchStage

/-- INIT: RSTEN, RST, FRAME (R180 to R184). -/
def execInit (s : State) : Out :=
  operation .init s fun st =>
    match st with
    | .rsten => execRsten s
    | .rst => execRst s
    | .frame => execRdid s
    | _ => .fault .noSuchStage

/-- Reserved code 0x0: answered at grant (R99, R194); it has no later stage. -/
def execReserved0 (s : State) : Out := operation .reserved0 s fun _ => .fault .noSuchStage

/-- Reserved code 0xC (R99, R194). -/
def execReservedC (s : State) : Out := operation .reservedC s fun _ => .fault .noSuchStage

/-- Reserved code 0xD (R99, R194). -/
def execReservedD (s : State) : Out := operation .reservedD s fun _ => .fault .noSuchStage

/-- Reserved code 0xE (R99, R194). -/
def execReservedE (s : State) : Out := operation .reservedE s fun _ => .fault .noSuchStage

/-- Reserved code 0xF (R99, R194). -/
def execReservedF (s : State) : Out := operation .reservedF s fun _ => .fault .noSuchStage

end Sys2Proof.Machine
end

