-- ==== Sys2Proof/Machine/Dispatch.lean ====
section
/-! DEFINITION. The dispatch: one arm per constructor of Instr. -/

namespace Sys2Proof.Machine

def exec (i : Instr) (s : State) : Host.Outcome State Fault Refusal :=
  match i with
  | .identify => Sys2Proof.Machine.execIdentify s
  | .read a n => Sys2Proof.Machine.execRead a n s
  | .program a ds => Sys2Proof.Machine.execProgram a ds s
  | .eraseSector k => Sys2Proof.Machine.execEraseSector k s
  | .eraseChip => Sys2Proof.Machine.execEraseChip s
  | .writeSr v1 v2 => Sys2Proof.Machine.execWriteSr v1 v2 s
  | .writeEnable => Sys2Proof.Machine.execWriteEnable s
  | .writeDisable => Sys2Proof.Machine.execWriteDisable s
  | .readSr1 => Sys2Proof.Machine.execReadSr1 s
  | .readSr2 => Sys2Proof.Machine.execReadSr2 s
  | .init => Sys2Proof.Machine.execInit s
  | .reserved0 => Sys2Proof.Machine.execReserved0 s
  | .reservedC => Sys2Proof.Machine.execReservedC s
  | .reservedD => Sys2Proof.Machine.execReservedD s
  | .reservedE => Sys2Proof.Machine.execReservedE s
  | .reservedF => Sys2Proof.Machine.execReservedF s
  | .wren => Sys2Proof.Machine.execWren s
  | .wrdi => Sys2Proof.Machine.execWrdi s
  | .rdsr1 => Sys2Proof.Machine.execRdsr1 s
  | .rdsr2 => Sys2Proof.Machine.execRdsr2 s
  | .wrsr d0 d1 => Sys2Proof.Machine.execWrsr d0 d1 s
  | .readData a n => Sys2Proof.Machine.execReadData a n s
  | .pp a ds => Sys2Proof.Machine.execPp a ds s
  | .se a => Sys2Proof.Machine.execSe a s
  | .ce => Sys2Proof.Machine.execCe s
  | .rsten => Sys2Proof.Machine.execRsten s
  | .rst => Sys2Proof.Machine.execRst s
  | .rdid => Sys2Proof.Machine.execRdid s

end Sys2Proof.Machine
end

