-- ==== Sys2Proof/Machine/Engine.lean ====
section
/-! DEFINITION. The engine step and the other agents' turns (spec 00_scope.md R10, R11): what the engine
runs next, and how a table word is placed where it runs next. -/

namespace Sys2Proof.Machine

/-- What the engine runs next: at IDLE the request the arbiter grants, else the frame the sequencer
sends (R24, R119, R192). None: at IDLE no host has posted. -/
def fetch (s : State) : Option Instr :=
  if s.stage = .idle then
    match arbitrate s with
    | none => none
    | some hq => some (decodeRequest hq.2)
  else currentFrame s

/-- One engine step (R10): exactly the instruction fetched. With no host pending nothing is enabled and
the engine waits (R192; DESIGN CHOICE, log entry 3). -/
def engineStep (s : State) : Out :=
  match fetch s with
  | some i => exec i s
  | none => if s.stage = .idle then .next s else .fault .noSuchStage

/-- One turn of the agenda (R11): the engine, a host, or the environment's reset. -/
def turnStep (t : Turn) (s : State) : Out :=
  match t with
  | .engine => engineStep s
  | .post h q => .next (post Config.nHosts Config.lenW h q s)
  | .take h => .next (take h s)
  | .reset => .next (blockReset s)

/-- A request and a stage in which the engine sends the wire frame `i` (R84 to R95: the operation that
emits it). A host operation is its own request, at IDLE. -/
def carrier (i : Instr) : Request × Stage :=
  match i with
  | .identify => (requestOfCmd 0x1, .idle)
  | .read a n => ({ requestOfCmd 0x2 with addr := a, rlen := n }, .idle)
  | .program a ds => ({ requestOfCmd 0x3 with addr := a, wdata := ds }, .idle)
  | .eraseSector k => ({ requestOfCmd 0x4 with sector := k }, .idle)
  | .eraseChip => (requestOfCmd 0x5, .idle)
  | .writeSr v1 v2 => ({ requestOfCmd 0x6 with sr1v := v1, sr2v := v2 }, .idle)
  | .writeEnable => (requestOfCmd 0x7, .idle)
  | .writeDisable => (requestOfCmd 0x8, .idle)
  | .readSr1 => (requestOfCmd 0x9, .idle)
  | .readSr2 => (requestOfCmd 0xA, .idle)
  | .init => (requestOfCmd 0xB, .idle)
  | .reserved0 => (requestOfCmd 0x0, .idle)
  | .reservedC => (requestOfCmd 0xC, .idle)
  | .reservedD => (requestOfCmd 0xD, .idle)
  | .reservedE => (requestOfCmd 0xE, .idle)
  | .reservedF => (requestOfCmd 0xF, .idle)
  | .wren => (requestOfCmd 0x7, .frame)
  | .wrdi => (requestOfCmd 0x8, .frame)
  | .rdsr1 => (requestOfCmd 0x9, .frame)
  | .rdsr2 => (requestOfCmd 0xA, .frame)
  | .wrsr d0 d1 => ({ requestOfCmd 0x6 with sr1v := d0, sr2v := d1 }, .frame)
  | .readData a n => ({ requestOfCmd 0x2 with addr := a, rlen := n }, .frame)
  | .pp a ds => ({ requestOfCmd 0x3 with addr := a, wdata := ds }, .frame)
  | .se a => ({ requestOfCmd 0x4 with sector := BitVec.ofNat 16 (a.toNat / sectorSize) }, .frame)
  | .ce => (requestOfCmd 0x5, .frame)
  | .rsten => (requestOfCmd 0xB, .rsten)
  | .rst => (requestOfCmd 0xB, .rst)
  | .rdid => (requestOfCmd 0x1, .frame)

/-- The state in which the next step runs `i`: host 0's request is the only one pending, and for a wire
frame it is already granted and at the stage that sends the frame (DESIGN CHOICE, log entry 15). -/
def placeInstr (i : Instr) (s : State) : State :=
  let c := carrier i
  match c.2 with
  | .idle =>
    { s with owner := none, stage := .idle, pend := [(0, c.1)], resp := slotClear s.resp 0, turns := [] }
  | st =>
    { s with
      owner := some 0, stage := st, op := c.1, pend := [(0, c.1)], resp := slotClear s.resp 0,
      turns := [] }

end Sys2Proof.Machine
end

