-- ==== Sys2Proof/Machine/Step.lean ====
section
/-! DEFINITION. One step of the machine: one turn of one agent (spec 00_scope.md R10, R11). -/

namespace Sys2Proof.Machine

/-- The agent the agenda names moves, or the engine when the agenda is empty (R11; DESIGN CHOICE, log entry 1). -/
def step (s : State) : Host.Outcome State Fault Refusal :=
  match s.turns with
  | [] => turnStep .engine s
  | t :: rest => turnStep t (s.setTurns rest)

/-- The state in which the very next step runs the instruction of a table word (DESIGN CHOICE, log entries 14, 15);
the state itself when the word is no instruction. -/
def State.withFetchWord (s : State) (nbits w : Nat) : State :=
  match decodeTableWord nbits w with
  | some i => placeInstr i s
  | none => s

end Sys2Proof.Machine
end

