-- ==== Sys2Proof/Machine/Wire.lean ====
section
/-! DEFINITION. What the wire toward the chip shows of the trace (spec 40_transaction.md R114, R119), and
of a cycle a block reset cuts (70_reset_and_hazards.md R241). The fill byte is an argument; the block's
own is `Config.fillByte` (R112). -/

namespace Sys2Proof.Machine

/-- The bytes of the data phase on the wire: the sent bytes, or the fill byte at each receive position
(R112, R114). -/
def dataOnWire (fill : Byte) (d : Data) : List Byte :=
  match d with
  | .noData => []
  | .tx ds => ds
  | .rx k => List.replicate k fill

/-- What one event shows on the wire: nothing but for a transaction, which shows chip-select falling,
the command phase, the data phase unless the command phase failed, and chip-select rising (R114). The
bytes are those the block hands to the transport; of a phase that failed the chip may have seen fewer
(DEDUCED, log entry 13). -/
def wireOf (fill : Byte) (e : Event) : List WireAct :=
  match e with
  | .txn _ _ cmd data n1 _ _ _ =>
    [.fall] ++ cmd.map .byte
      ++ (if n1 = cmd.length then (dataOnWire fill data).map .byte else []) ++ [.rise]
  | .grant _ _ => []
  | .resp _ _ => []
  | .reset => []

/-- What the whole trace shows on the wire. -/
def wireTrace (fill : Byte) (t : List Event) : List WireAct := t.flatMap (wireOf fill)

/-- What a cycle cut after `k` bytes by a block reset shows: chip-select falls, at most `k` bytes of the
frame pass, chip-select rises; no event stands for it (R241). -/
def cutCycle (fill : Byte) (f : Frame) (k : Nat) : List WireAct :=
  [.fall] ++ ((cycleBytes fill f).take k).map .byte ++ [.rise]

/-- Follow the chip-select line along the wire: `true` while selected; none when it would fall while
selected, rise while deselected, or a byte would pass while deselected. -/
def selectLine (selected : Bool) (acts : List WireAct) : Option Bool :=
  match acts, selected with
  | [], b => some b
  | .fall :: rest, false => selectLine true rest
  | .byte _ :: rest, true => selectLine true rest
  | .rise :: rest, true => selectLine false rest
  | _ :: _, _ => none

end Sys2Proof.Machine
end

