-- ==== Sys2Proof/Safety.lean ====
section
/-! DEFINITION. What counts as a safe run: the invariant of the state, the properties of the trace the
spec derives from its rules (R153, R154, R199), the named premises about the chip (R254), the host's
duties (R248, R249, R257), and the words the statements are written in. -/

namespace Sys2Proof.Safety

open Sys2Proof.Machine

/-! ### Words for results -/

/-- The state after one chip-select cycle with frame `f` that used `k` answers of the oracle: its one
`Txn` event is appended and chip-select is high (R113, R117). -/
def cycled (h : Nat) (f : Frame) (n1 : Nat) (n2 : Option Nat) (rx : List Byte) (ok : Bool) (k : Nat)
    (s : State) : State :=
  { s with
    csN := 1
    trace := s.trace ++ [.txn h s.stage f.cmd f.data n1 n2 rx ok]
    answers := s.answers.drop k
    draws := s.draws + k }

/-- The state after the owner `h` has been answered (R195). -/
def answered (h : Nat) (result : Result) (cause : Cause) (rdata : List Byte) (s : State) : State :=
  { s with
    owner := none
    stage := .idle
    pend := slotClear s.pend h
    resp := slotPut s.resp h ⟨result, cause, rdata⟩
    trace := s.trace ++ [.resp h ⟨result, cause, rdata⟩] }

/-- The count the oracle gives to `Transmit(bs)` when it is the next call. -/
def sentCount (bs : List Byte) (s : State) : Nat := (answerTo (.transmit bs) s).count

/-- The count the oracle gives to `Transmit(ds)` when it is the call after the next. -/
def sentCount2 (ds : List Byte) (s : State) : Nat := (answerTo (.transmit ds) s.consume).count

/-- The count the oracle gives to `Receive(k)` when it is the call after the next. -/
def gotCount (k : Nat) (s : State) : Nat := (answerTo (.receive k) s.consume).count

/-- The bytes the oracle gives to `Receive(k)` when it is the call after the next. -/
def gotBytes (k : Nat) (s : State) : List Byte := answerBytes (.receive k) s.consume k

/-- The status byte a poll reads when both of its counts are right. -/
def gotStatus (s : State) : Byte := answerByte (.receive 1) s.consume 0

/-- `n2` of R117: the count of the data phase, none when it makes no call (R113, R115). -/
def txnCount2 (f : Frame) (s : State) : Option Nat :=
  if sentCount f.cmd s = f.cmd.length then
    match f.data with
    | .noData => none
    | .tx ds => if ds = [] then none else some (sentCount2 ds s)
    | .rx k => if k = 0 then none else some (gotCount k s)
  else none

/-- `ok` of R117: every count is the requested one (R113, R116). -/
def txnOk (f : Frame) (s : State) : Bool :=
  sentCount f.cmd s == f.cmd.length &&
    match f.data with
    | .noData => true
    | .tx ds => ds == [] || sentCount2 ds s == ds.length
    | .rx k => k == 0 || gotCount k s == k

/-- `rx` of R117: the bytes received, none when the transaction failed (R113). -/
def txnBytes (f : Frame) (s : State) : List Byte :=
  if txnOk f s then
    match f.data with
    | .noData => []
    | .tx _ => []
    | .rx k => gotBytes k s
  else []

/-- The one event of transaction `f` of host `h`: the caller's stage, the two phases, and what the oracle
answers to its calls (R117). -/
def txnEvent (h : Nat) (f : Frame) (s : State) : Event :=
  .txn h s.stage f.cmd f.data (sentCount f.cmd s) (txnCount2 f s) (txnBytes f s) (txnOk f s)

/-- `r <- XFER(f)`; on `Fail` the operation ends with TRANSACTION (R141, R215), else `k` goes on with
the bytes received. -/
def sentThen (h : Nat) (f : Frame) (s : State) (k : List Byte → State → State) : State :=
  match (xfer h f s).1 with
  | .fail => answered h .error .transaction [] (xfer h f s).2
  | .ok rx => k rx (xfer h f s).2

/-- The step of a gate on transaction `f` (R121, R123, R124): `k` goes on with the bytes received; a
failure raises TRANSACTION under `ABORT` (R126) and goes on with `onFail` under `IGNORE` (R127). -/
def gateThen (h : Nat) (f : Frame) (s : State) (onFail : State → State)
    (k : List Byte → State → State) : State :=
  match (xfer h f s).1, Config.gateErrPolicy with
  | .ok rx, _ => k rx (xfer h f s).2
  | .fail, .abort => answered h .error .transaction [] (xfer h f s).2
  | .fail, .ignore => onFail (xfer h f s).2

/-! ### The trace -/

/-- A transaction event. -/
def isTxn (e : Event) : Bool :=
  match e with
  | .txn _ _ _ _ _ _ _ _ => true
  | .grant _ _ => false
  | .resp _ _ => false
  | .reset => false

/-- The command phase of a transaction event. -/
def cmdOf (e : Event) : List Byte :=
  match e with
  | .txn _ _ cmd _ _ _ _ _ => cmd
  | .grant _ _ => []
  | .resp _ _ => []
  | .reset => []

/-- A response as the block writes them: never BUSY (R31, R224), no cause exactly when OK (R32), and on
an error no data unless the identity did not match (R30). -/
def responseOk (r : Response) : Prop :=
  r.result ≠ .busy ∧ (r.cause = .noCause ↔ r.result = .ok) ∧
    (r.result = .error → r.rdata = [] ∨ (r.cause = .idMismatch ∧ r.rdata.length = 3))

/-- Whether the counts of a transaction are the requested ones (R115, R116). -/
def countsFull (cmd : List Byte) (data : Data) (n1 : Nat) (n2 : Option Nat) : Prop :=
  n1 = cmd.length ∧
    match data with
    | .noData => n2 = none
    | .tx ds => n2 = if ds.length = 0 then none else some ds.length
    | .rx k => n2 = if k = 0 then none else some k

/-- An event as the block emits them. A transaction carries one of the twelve frames (R80) and a stage
other than IDLE (R119); it is ok exactly when its counts are full, has received what the frame
receives when ok and nothing otherwise (R113), and no second count when the first is wrong. -/
def eventOk (e : Event) : Prop :=
  match e with
  | .txn _ st cmd data n1 n2 rx ok =>
    (∃ i, decodeFrame ⟨cmd, data⟩ = .ok i) ∧ st ≠ .idle ∧ (ok = true ↔ countsFull cmd data n1 n2) ∧
      rx.length = (if ok then bytesReceived ⟨cmd, data⟩ else 0) ∧ (n1 ≠ cmd.length → n2 = none)
  | .grant _ _ => True
  | .resp _ r => responseOk r
  | .reset => True

/-- Follow the engine's ownership along the trace: a grant when free, transactions and one response of
the owner only, a reset at any time; none when an event breaks this (R193, R199). -/
def busOwner (o : Option Nat) (t : List Event) : Option (Option Nat) :=
  match t with
  | [] => some o
  | .grant h _ :: rest => if o = none then busOwner (some h) rest else none
  | .txn h _ _ _ _ _ _ _ :: rest => if o = some h then busOwner o rest else none
  | .resp h _ :: rest => if o = some h then busOwner none rest else none
  | .reset :: rest => busOwner none rest

/-- Every event of `t` is right after the event before it; `prev` is the one before the first. -/
def chained (right : Option Event → Event → Prop) (prev : Option Event) (t : List Event) : Prop :=
  match t with
  | [] => True
  | e :: rest => right prev e ∧ chained right (some e) rest

/-- A status-register-1 poll of host `h` in stage `st`, read with full counts, whose byte passes
`test`. -/
def isPoll (test : Byte → Bool) (h : Nat) (st : Stage) (e : Event) : Prop :=
  ∃ n1 n2 b, e = .txn h st [0x05] (.rx 1) n1 n2 [b] true ∧ test b = true

/-- A failed status-register-1 poll of host `h` in stage `st`. -/
def isFailedPoll (h : Nat) (st : Stage) (e : Event) : Prop :=
  ∃ n1 n2, e = .txn h st [0x05] (.rx 1) n1 n2 [] false

/-- The poll that let the write-gate of host `h` go: it saw WEL = 1, or, under `IGNORE` only, it failed
(R153). -/
def letByWriteGate (h : Nat) (e : Event) : Prop :=
  isPoll wel h .wgPoll e ∨ (Config.gateErrPolicy = .ignore ∧ isFailedPoll h .wgPoll e)

/-- The poll that let the pre-gate of host `h` go: it saw WIP = 0, or, under `IGNORE` only, it failed
(R154). -/
def letByBusyGate (h : Nat) (e : Event) : Prop :=
  isPoll (fun b => !wip b) h .preBg e ∨ (Config.gateErrPolicy = .ignore ∧ isFailedPoll h .preBg e)

/-- A mutating transaction comes right after the poll that let its write-gate go (R153). -/
def writeGateStep (prev : Option Event) (e : Event) : Prop :=
  match e with
  | .txn h _ cmd _ _ _ _ _ =>
    mutatingCmd cmd = true → ∃ p, prev = some p ∧ letByWriteGate h p
  | .grant _ _ => True
  | .resp _ _ => True
  | .reset => True

/-- The write-gate property of a trace (R153). -/
def writeGated (t : List Event) : Prop := chained writeGateStep none t

/-- A READ frame comes right after the poll that let its pre-gate go, and so does the first WREN of a
write-gate that follows a pre-gate (R154). -/
def busyGateStep (prev : Option Event) (e : Event) : Prop :=
  match e with
  | .txn h st cmd _ _ _ _ _ =>
    (cmd.head? = some 0x03 → ∃ p, prev = some p ∧ letByBusyGate h p) ∧
    (st = .wgWren → ∀ p, prev = some p →
      (∃ h' cmd' d n1 n2 rx ok, p = .txn h' .preBg cmd' d n1 n2 rx ok) → letByBusyGate h p)
  | .grant _ _ => True
  | .resp _ _ => True
  | .reset => True

/-- The busy-gate property of a trace, as far as the block enforces it (R154). -/
def busyGated (t : List Event) : Prop := chained busyGateStep none t

/-! ### Invariants -/

/-- The invariant of the state: what R22, R23, R24, R26, R28, R29 and R195 say of every step
boundary, and the canonical form of the two slot tables. -/
structure StateInv (s : State) : Prop where
  /-- `cs_n = 1` at every step boundary (R22, R119). -/
  csHigh : s.csN = 1
  /-- `owner` is none exactly when `stage = IDLE` (R23). -/
  ownerIdle : s.owner = none ↔ s.stage = .idle
  /-- `pend[h]` of the owner still holds the request being served (R28). -/
  ownerSlot : ∀ h, s.owner = some h → slotGet s.pend h = some s.op
  /-- The stage is one of the operation's row (R140). -/
  stageInRow : s.stage ≠ .idle → s.stage ∈ stageRow Config.wrsrWait (currentOp s)
  /-- The request slots are in canonical form. -/
  pendForm : slotsWf s.pend
  /-- The response slots are in canonical form. -/
  respForm : slotsWf s.resp
  /-- Only existing hosts have requests, of the widths of R26 (R190). -/
  pendHosts : ∀ p ∈ s.pend, p.1 < Config.nHosts ∧ p.2.wf = true
  /-- Only existing hosts have responses, and these are as the block writes them (R190, R30). -/
  respHosts : ∀ p ∈ s.resp, p.1 < Config.nHosts ∧ responseOk p.2
  /-- A host has at most one request outstanding, and none beside an untaken response (R191, R195). -/
  oneOutstanding : ∀ h, slotGet s.pend h ≠ none → slotGet s.resp h = none

/-- Every event of the trace is one the block emits, and every untaken response is one it writes. -/
def EventsInv (s : State) : Prop := (∀ e ∈ s.trace, eventOk e) ∧ ∀ p ∈ s.resp, responseOk p.2

/-- The trace follows the ownership, and ends with the present owner; the engine is free at IDLE
(R193, R199). -/
def OwnershipInv (s : State) : Prop :=
  busOwner none s.trace = some s.owner ∧ (s.stage = .idle → s.owner = none)

/-- The operation being served sends a mutating frame in its FRAME stage (R96). -/
def mutatingOp (i : Instr) : Bool :=
  match ownFrame i with
  | none => false
  | some j =>
    match encode j with
    | .request _ => false
    | .frame f => mutatingCmd f.cmd

/-- The trace has the write-gate property, and an operation that stands before its mutating frame has
just been let through its write-gate (R153). -/
def WriteGateInv (s : State) : Prop :=
  writeGated s.trace ∧
    (s.stage = .frame → mutatingOp (currentOp s) = true →
      ∀ h, s.owner = some h → ∃ p, s.trace.getLast? = some p ∧ letByWriteGate h p)

/-- The operation being served is a READ. -/
def isRead (i : Instr) : Prop := ∃ a n, i = .read a n

/-- The trace has the busy-gate property, a READ that stands before its frame has just been let through
its pre-gate, and so has a write-gate that stands at its enable half after a pre-gate (R154). -/
def BusyGateInv (s : State) : Prop :=
  busyGated s.trace ∧
    (∀ h, s.owner = some h →
      (s.stage = .frame → isRead (currentOp s) →
        ∃ p, s.trace.getLast? = some p ∧ letByBusyGate h p) ∧
      (s.stage = .wgWren → ∀ p, s.trace.getLast? = some p →
        (∃ h' cmd d n1 n2 rx ok, p = .txn h' .preBg cmd d n1 n2 rx ok) → letByBusyGate h p))

/-- A run is at rest: the engine is free and no request is posted (R256). -/
def atRest (s : State) : Prop := s.stage = .idle ∧ s.pend = []

/-! ### Bounded runs -/

/-- `n` steps in a row, as long as each answers a next state. -/
def steps (n : Nat) (s : State) : Out :=
  match n with
  | 0 => .next s
  | k + 1 =>
    match step s with
    | .next t => steps k t
    | .fault r => .fault r
    | .refused r => .refused r

/-! ### Premises about the chip (R254) -/

/-- `CHIP_FULL_COUNTS` along a trace: every transaction had full counts. -/
def chipFullCounts (t : List Event) : Prop :=
  ∀ e ∈ t, ∀ h st cmd data n1 n2 rx ok, e = .txn h st cmd data n1 n2 rx ok → ok = true

/-- The byte that the oracle answers to the gate's next poll, when both counts are right. -/
def pollByte (h : Nat) (s : State) : Option Byte :=
  match (xfer h frameRdsr1 s).1 with
  | .ok rx => some (rx.headD 0)
  | .fail => none

/-- The state that one poll leaves before the gate decides (R121, R124): under `IGNORE` a failed poll has
drawn its free byte as well (R127). -/
def afterPoll (h : Nat) (s : State) : State :=
  match (xfer h frameRdsr1 s).1, Config.gateErrPolicy with
  | .fail, .ignore => (xfer h frameRdsr1 s).2.consume
  | .fail, .abort => (xfer h frameRdsr1 s).2
  | .ok _, _ => (xfer h frameRdsr1 s).2

/-- The state that the write-gate's WREN leaves (R123). -/
def afterEnable (h : Nat) (s : State) : State := (xfer h frameWren s).2.goto .wgPoll

/-- The state in which a busy-gate that stays shut makes its poll number `k`, counting from 0 (R122). -/
def busyPolls (h k : Nat) (s : State) : State :=
  match k with
  | 0 => s
  | k + 1 => busyPolls h k (afterPoll h s)

/-- The state of a write-gate's next poll: after the WREN, when that is still to come. -/
def pollAt (h : Nat) (s : State) : State := if s.stage = .wgWren then afterEnable h s else s

/-- The state in which a write-gate that stays shut makes its poll number `k`, counting from 0: WREN and
RDSR1 in turn (R125). -/
def writePolls (h k : Nat) (s : State) : State :=
  match k with
  | 0 => pollAt h s
  | k + 1 => writePolls h k ((afterPoll h (pollAt h s)).goto .wgWren)

/-- The busy-gate of host `h` that stands in `s` has a poll that the oracle answers with bit 0 clear. -/
def busyGateOpens (h : Nat) (s : State) : Prop :=
  ∃ k b, pollByte h (busyPolls h k s) = some b ∧ wip b = false

/-- The write-gate of host `h` that stands in `s` has a poll that the oracle answers with bit 1 set. -/
def writeGateOpens (h : Nat) (s : State) : Prop :=
  ∃ k b, pollByte h (writePolls h k s) = some b ∧ wel b = true

/-- `CHIP_WIP_CLEARS` from `s` on: in every busy-gate that the run comes to, some poll answers a byte with
bit 0 clear. How the polls of a gate that another cause has ended are counted is log entry 21. -/
def chipWipClears (s : State) : Prop :=
  ∀ n t h, steps n s = .next t → t.owner = some h → (t.stage = .preBg ∨ t.stage = .postBg) →
    busyGateOpens h t

/-- `CHIP_WEL_SETS` from `s` on: in every write-gate that the run comes to, some poll answers a byte with
bit 1 set (log entry 21, as for `CHIP_WIP_CLEARS`). -/
def chipWelSets (s : State) : Prop :=
  ∀ n t h, steps n s = .next t → t.owner = some h → (t.stage = .wgWren ∨ t.stage = .wgPoll) →
    writeGateOpens h t

/-- `CHIP_WIP_STABLE` along a trace: within one operation, once a poll has answered bit 0 clear, so does
every later one up to the FRAME step. `seen` says that such a poll has been seen. -/
def chipWipStable (seen : Bool) (t : List Event) : Prop :=
  match t with
  | [] => True
  | .grant _ _ :: rest => chipWipStable false rest
  | .resp _ _ :: rest => chipWipStable false rest
  | .reset :: rest => chipWipStable false rest
  | .txn _ st cmd _ _ _ rx ok :: rest =>
    if st = .frame ∨ st = .postBg then chipWipStable false rest
    else if cmd = [0x05] ∧ ok = true then
      (seen = true → wip (rx.headD 0) = false) ∧
        chipWipStable (seen || !wip (rx.headD 0)) rest
    else chipWipStable seen rest

/-! ### Scripts of answers and events for bounded runs -/

/-- The answers to one poll with full counts that reads the byte `b`. -/
def pollAnswers (b : Byte) : List Answer := [⟨1, []⟩, ⟨1, [b]⟩]

/-- The answers to polls with full counts that read the bytes `bs`. -/
def pollScript (bs : List Byte) : List Answer := bs.flatMap pollAnswers

/-- The answers to a write-gate whose WRENs have full counts and whose polls read `bs`. -/
def wgScript (bs : List Byte) : List Answer := bs.flatMap fun b => ⟨1, []⟩ :: pollAnswers b

/-- The events of polls by host `h` in stage `st` that read `bs`. -/
def pollEvents (h : Nat) (st : Stage) (bs : List Byte) : List Event :=
  bs.map fun b => .txn h st [0x05] (.rx 1) 1 (some 1) [b] true

/-- The events of a write-gate of host `h` whose polls read `bs`: WREN and RDSR1 in turn (R125). -/
def wgEvents (h : Nat) (bs : List Byte) : List Event :=
  bs.flatMap fun b =>
    [.txn h .wgWren [0x06] .noData 1 none [] true, .txn h .wgPoll [0x05] (.rx 1) 1 (some 1) [b] true]

/-! ### The host's duties (R248, R249, R257): the block enforces none of them -/

/-- A PROGRAM stays inside one page (R248). -/
def insideOnePage (a : Addr) (ds : List Byte) : Prop := a.toNat % pageSize + ds.length ≤ pageSize

/-- The first byte of the sector a sector number selects (R71, R83). -/
def sectorBase (k : Sector) : Nat := (k.toNat * sectorSize) % 2 ^ 24

/-- A sector number that selects its own sector and not another's (R249). DESIGN CHOICE (log entry 26): the
spec gives no sector count, so it does not say which sector numbers exist; 4096 is only where the
truncation of R83 begins to alias. -/
def sectorInReach (k : Sector) : Prop := k.toNat < 4096

end Sys2Proof.Safety
end

