-- ==== Sys2Proof/Certificates/Slice0/Obligations.lean ====
section
/-! DEFINITION. The statements about the model, for the provers. Each docstring names the rules of spec/
it formalises. -/

open Sys2Proof Sys2Proof.Machine Sys2Proof.Safety

/-! ### Reset and the host ports -/

/-- R39: what a block reset leaves in every element but `op`, from any state. The model's choice: the chip
that a reset leaves untouched is the oracle's fields (log entry 4), and `State.reset` is the state after
the first reset, with the one event `Reset` (log entry 11). -/
def Obligations.ResetLeavesTheResetValues : Prop :=
  (∀ s : State, (blockReset s).csN = 1 ∧ (blockReset s).owner = none ∧ (blockReset s).stage = .idle ∧
    (∀ h, slotGet (blockReset s).pend h = none) ∧ (∀ h, slotGet (blockReset s).resp h = none) ∧
    (blockReset s).trace = s.trace ++ [.reset] ∧
    (blockReset s).answers = s.answers ∧ (blockReset s).draws = s.draws) ∧
  State.reset.csN = 1 ∧ State.reset.owner = none ∧ State.reset.stage = .idle ∧
    (∀ h, slotGet State.reset.pend h = none) ∧ (∀ h, slotGet State.reset.resp h = none) ∧
    State.reset.trace = [.reset]

/-- R240: the environment's reset turn, at any step boundary, writes the reset values and appends
`Reset`; it sends no frame and the engine is IDLE after it. The model's choice: `op`, which R39 leaves
unspecified, keeps its value (log entry 10); the reset is a turn of the agenda (log entry 1); the oracle's
fields are unchanged (log entry 4). -/
def Obligations.ResetTurnResetsTheBlock : Prop :=
  ∀ (s : State) (rest : List Turn), s.turns = .reset :: rest →
    step s = .next { s with
      csN := 1, owner := none, stage := .idle, pend := [], resp := []
      trace := s.trace ++ [.reset]
      turns := rest }

/-- R191: a host posts a request of the right widths when both its slots are empty, and the step writes
that slot and nothing else; any `cmd` may be posted, the reserved codes included. -/
def Obligations.PostFillsTheSlot : Prop :=
  ∀ (s : State) (h : Nat) (q : Request) (rest : List Turn), s.turns = .post h q :: rest →
    h < Config.nHosts → q.wf = true → slotGet s.pend h = none → slotGet s.resp h = none →
    ∃ t, step s = .next t ∧ slotGet t.pend h = some q ∧
      (∀ j, j ≠ h → slotGet t.pend j = slotGet s.pend j) ∧
      t = { s with turns := rest, pend := t.pend }

/-- R196: a host takes its response; the step gives it the response and empties the slot. -/
def Obligations.TakeEmptiesTheSlot : Prop :=
  ∀ (s : State) (h : Nat) (r : Response) (rest : List Turn), s.turns = .take h :: rest →
    slotGet s.resp h = some r →
    taken h s = some r ∧
    ∃ t, step s = .next t ∧ slotGet t.resp h = none ∧
      (∀ j, j ≠ h → slotGet t.resp j = slotGet s.resp j) ∧
      t = { s with turns := rest, resp := t.resp }

/-- The model's choice (log entries 2 and 3): a host turn that R191 or R196 does not enable, and an
engine turn with nothing to grant, change nothing but the agenda. -/
def Obligations.DisabledTurnsChangeNothing : Prop :=
  (∀ (s : State) (h : Nat) (q : Request) (rest : List Turn), s.turns = .post h q :: rest →
    (slotGet s.pend h ≠ none ∨ slotGet s.resp h ≠ none ∨ Config.nHosts ≤ h ∨ q.wf = false) →
    step s = .next { s with turns := rest }) ∧
  (∀ (s : State) (h : Nat) (rest : List Turn), s.turns = .take h :: rest → slotGet s.resp h = none →
    step s = .next { s with turns := rest }) ∧
  (∀ s : State, s.turns = [] → s.stage = .idle → s.pend = [] → step s = .next s)

/-! ### The step, the arbiter and the grant -/

/-- Log entries 1 and 16: the engine's step is exactly `exec` of the instruction fetched: at IDLE the
operation of the request the arbiter grants, at every other stage the frame the sequencer sends. -/
def Obligations.StepRunsTheFetchedInstruction : Prop :=
  (∀ (s : State) (h : Nat) (q : Request), s.stage = .idle → arbitrate s = some (h, q) →
    fetch s = some (decodeRequest q)) ∧
  (∀ s : State, s.stage ≠ .idle → fetch s = currentFrame s) ∧
  (∀ (s : State) (i : Instr), s.turns = [] → fetch s = some i → step s = exec i s) ∧
  (∀ (s : State) (i : Instr) (rest : List Turn), s.turns = .engine :: rest →
    fetch { s with turns := rest } = some i → step s = exec i { s with turns := rest })

/-- R192: the grant of an operation latches owner and request, emits `Grant` and sets the first stage
of the operation's row (R140); nothing else changes, so no transaction is made. -/
def Obligations.GrantStartsTheOperation : Prop :=
  ∀ (s : State) (i : Instr) (h : Nat) (q : Request), s.stage = .idle → arbitrate s = some (h, q) →
    decodeRequest q = i → isOperation i = true →
    ∃ st, firstStage Config.wrsrWait i = some st ∧
      exec i s = .next { s with
        owner := some h, op := q, stage := st, trace := s.trace ++ [.grant h q] }

/-- R194: a request with a reserved code is answered ERROR, ILLEGAL_CMD with no data inside its grant
step: the slots are those of R195, the engine is free and at IDLE, and the only events are Grant and
Resp. -/
def Obligations.ReservedCodeAnsweredAtGrant : Prop :=
  ∀ (s : State) (i : Instr) (h : Nat) (q : Request), s.stage = .idle → arbitrate s = some (h, q) →
    decodeRequest q = i → i ∈ [.reserved0, .reservedC, .reservedD, .reservedE, .reservedF] →
    exec i s = .next { s with
      owner := none, op := q, stage := .idle, pend := slotClear s.pend h,
      resp := slotPut s.resp h ⟨.error, .illegalCmd, []⟩,
      trace := s.trace ++ [.grant h q, .resp h ⟨.error, .illegalCmd, []⟩] }

/-- R198: given pending hosts and the trace the arbiter grants one of them; log entry 8: it is the policy's
own value whenever that is one of them, and the first pending host otherwise. -/
def Obligations.ArbiterPicksAPendingHost : Prop :=
  (∀ (hosts : List Nat) (t : List Event), hosts ≠ [] → ∃ h ∈ hosts, arbPick hosts t = some h) ∧
  ∀ (h : Nat) (rest : List Nat) (t : List Event),
    arbPick (h :: rest) t =
      some (if Config.arbPolicy (h :: rest) t ∈ h :: rest then Config.arbPolicy (h :: rest) t else h)

/-- R195: `Respond` fills the owner's response slot, empties its request slot, emits `Resp` and frees
the engine; every other slot and element is as before. -/
def Obligations.RespondCompletesTheOperation : Prop :=
  ∀ (s : State) (h : Nat) (result : Result) (cause : Cause) (rdata : List Byte),
    slotGet (respond h result cause rdata s).resp h = some ⟨result, cause, rdata⟩ ∧
    slotGet (respond h result cause rdata s).pend h = none ∧
    (respond h result cause rdata s).trace = s.trace ++ [.resp h ⟨result, cause, rdata⟩] ∧
    (respond h result cause rdata s).owner = none ∧
    (respond h result cause rdata s).stage = .idle ∧
    (∀ j, j ≠ h → slotGet (respond h result cause rdata s).resp j = slotGet s.resp j ∧
      slotGet (respond h result cause rdata s).pend j = slotGet s.pend j) ∧
    (respond h result cause rdata s).csN = s.csN ∧ (respond h result cause rdata s).op = s.op ∧
    (respond h result cause rdata s).answers = s.answers ∧
    (respond h result cause rdata s).draws = s.draws ∧
    (respond h result cause rdata s).turns = s.turns

/-- R140: the stage row of each operation, its first entry, and the entry after a stage; a step whose
successor is END answers OK with the data of the operation. -/
def Obligations.StageRowsOfTheSequencer : Prop :=
  (∀ wait, stageRow wait .identify = [.frame]) ∧
  (∀ wait a n, stageRow wait (.read a n) = [.preBg, .frame]) ∧
  (∀ wait a ds, stageRow wait (.program a ds) = [.preBg, .wgWren, .wgPoll, .frame]) ∧
  (∀ wait k, stageRow wait (.eraseSector k) = [.preBg, .wgWren, .wgPoll, .frame, .postBg]) ∧
  (∀ wait, stageRow wait .eraseChip = [.preBg, .wgWren, .wgPoll, .frame, .postBg]) ∧
  (∀ v1 v2, stageRow false (.writeSr v1 v2) = [.wgWren, .wgPoll, .frame]) ∧
  (∀ v1 v2, stageRow true (.writeSr v1 v2) = [.preBg, .wgWren, .wgPoll, .frame]) ∧
  (∀ wait, stageRow wait .writeEnable = [.frame]) ∧
  (∀ wait, stageRow wait .writeDisable = [.frame]) ∧
  (∀ wait, stageRow wait .readSr1 = [.frame]) ∧
  (∀ wait, stageRow wait .readSr2 = [.frame]) ∧
  (∀ wait, stageRow wait .init = [.rsten, .rst, .frame]) ∧
  (∀ wait i st rest, stageRow wait i = st :: rest → firstStage wait i = some st) ∧
  (∀ wait i st st' before after, stageRow wait i = before ++ st :: st' :: after →
    nextStage wait i st = some st') ∧
  (∀ wait i st before, stageRow wait i = before ++ [st] → nextStage wait i st = none) ∧
  (∀ (s : State) (h : Nat) (rdata : List Byte) (st : Stage),
    nextStage Config.wrsrWait (decodeRequest s.op) s.stage = some st →
    advance h rdata s = { s with stage := st }) ∧
  (∀ (s : State) (h : Nat) (rdata : List Byte),
    nextStage Config.wrsrWait (decodeRequest s.op) s.stage = none →
    advance h rdata s = answered h .ok .noCause rdata s)

/-! ### One transaction -/

/-- R113, R115, R116: what one chip-select cycle does on every answer of the oracle: the result, the one
event with its counts, chip-select back at 1, and nothing else of the block's state. That each call uses
up one listed answer, counted by `draws`, is the model's choice (log entry 4). -/
def Obligations.TransactionFollowsTheCounts : Prop :=
  ∀ (h : Nat) (f : Frame) (s : State),
    xfer h f s =
      if sentCount f.cmd s ≠ f.cmd.length then
        (.fail, cycled h f (sentCount f.cmd s) none [] false 1 s)
      else
        match f.data with
        | .noData => (.ok [], cycled h f f.cmd.length none [] true 1 s)
        | .tx ds =>
          if ds = [] then (.ok [], cycled h f f.cmd.length none [] true 1 s)
          else if sentCount2 ds s = ds.length then
            (.ok [], cycled h f f.cmd.length (some ds.length) [] true 2 s)
          else (.fail, cycled h f f.cmd.length (some (sentCount2 ds s)) [] false 2 s)
        | .rx k =>
          if k = 0 then (.ok [], cycled h f f.cmd.length none [] true 1 s)
          else if gotCount k s = k then
            (.ok (gotBytes k s), cycled h f f.cmd.length (some k) (gotBytes k s) true 2 s)
          else (.fail, cycled h f f.cmd.length (some (gotCount k s)) [] false 2 s)

/-- R117: every transaction appends exactly one `Txn` event: the host and the stage that called it, the two
phases, the counts that the oracle answers to its calls, the bytes received, and `ok` exactly when the
result is not `Fail` (no bytes then). The step that sends a frame makes that one transaction, for the
owner and in its stage, and no other. -/
def Obligations.OneEventPerTransaction : Prop :=
  (∀ (h : Nat) (f : Frame) (s : State),
    (xfer h f s).2.trace = s.trace ++
      [.txn h s.stage f.cmd f.data (sentCount f.cmd s) (txnCount2 f s) (txnBytes f s) (txnOk f s)] ∧
    (xfer h f s).1 = (if txnOk f s then .ok (txnBytes f s) else .fail) ∧
    (txnOk f s = false → txnBytes f s = [])) ∧
  ∀ (s : State) (j : Instr) (f : Frame) (h : Nat), s.owner = some h → currentFrame s = some j →
    encode j = .frame f →
    ∃ t es, exec j s = .next t ∧ t.trace = s.trace ++ txnEvent h f s :: es ∧
      ∀ e ∈ es, isTxn e = false

/-- R114, R119: on the wire chip-select falls, the command bytes pass, the data phase follows unless the
command phase failed, and chip-select rises; along every trace it never falls while selected, no byte
passes while it is high, and it is high at the end. -/
def Obligations.WireSelectsOncePerTransaction : Prop :=
  (∀ fill h st cmd n1 n2 rx ok ds k,
    (n1 = cmd.length →
      wireOf fill (.txn h st cmd .noData n1 n2 rx ok) = [.fall] ++ cmd.map .byte ++ [.rise] ∧
      wireOf fill (.txn h st cmd (.tx ds) n1 n2 rx ok)
        = [.fall] ++ (cmd ++ ds).map .byte ++ [.rise] ∧
      wireOf fill (.txn h st cmd (.rx k) n1 n2 rx ok)
        = [.fall] ++ (cmd ++ List.replicate k fill).map .byte ++ [.rise]) ∧
    (∀ d, n1 ≠ cmd.length →
      wireOf fill (.txn h st cmd d n1 n2 rx ok) = [.fall] ++ cmd.map .byte ++ [.rise])) ∧
  ∀ (fill : Byte) (t : List Event), selectLine false (wireTrace fill t) = some false

/-- R241: what a cycle cut by a block reset shows: chip-select falls, a prefix of the frame's bytes passes,
chip-select rises. -/
def Obligations.CutCycleShowsAPrefix : Prop :=
  ∀ (fill : Byte) (f : Frame) (k : Nat),
    (∃ bs, bs <+: cycleBytes fill f ∧ cutCycle fill f k = [.fall] ++ bs.map .byte ++ [.rise]) ∧
    selectLine false (cutCycle fill f k) = some false

/-! ### The gates -/

/-- R121: the busy-gate's poll step, before and after the frame: one RDSR1 transaction; bit 0 set polls
again, bit 0 clear goes on to the next stage or, at END, answers OK; a failed poll raises TRANSACTION
under `ABORT` and decides on a free byte under `IGNORE`. -/
def Obligations.BusyGatePollStep : Prop :=
  ∀ (s : State) (h : Nat), s.owner = some h → (s.stage = .preBg ∨ s.stage = .postBg) →
    s.stage ∈ stageRow Config.wrsrWait (decodeRequest s.op) →
    exec .rdsr1 s = .next (gateThen h ⟨[0x05], .rx 1⟩ s
      (fun t => if (drawByte t).1.getLsbD 0 then (drawByte t).2 else advance h [] (drawByte t).2)
      (fun rx t => if (rx.headD 0).getLsbD 0 then t else advance h [] t))

/-- R123: the write-gate always begins with its enable step, which is one WREN transaction, then WG_POLL; a
failed one raises TRANSACTION under `ABORT` and goes on all the same under `IGNORE`. -/
def Obligations.WriteGateEnableStep : Prop :=
  (∀ wait i, firstStage wait i ≠ some .wgPoll) ∧
  (∀ wait i st, nextStage wait i st = some .wgPoll → st = .wgWren) ∧
  ∀ (s : State) (h : Nat), s.owner = some h → s.stage = .wgWren →
    s.stage ∈ stageRow Config.wrsrWait (decodeRequest s.op) →
    exec .wren s = .next (gateThen h ⟨[0x06], .noData⟩ s
      (fun t => { t with stage := .wgPoll }) (fun _ t => { t with stage := .wgPoll }))

/-- R124: the write-gate's poll step: one RDSR1 transaction; bit 1 set goes on to FRAME, bit 1 clear
goes back to WG_WREN; a failed poll raises TRANSACTION under `ABORT` and decides on a free byte under
`IGNORE`. -/
def Obligations.WriteGatePollStep : Prop :=
  ∀ (s : State) (h : Nat), s.owner = some h → s.stage = .wgPoll →
    s.stage ∈ stageRow Config.wrsrWait (decodeRequest s.op) →
    exec .rdsr1 s = .next (gateThen h ⟨[0x05], .rx 1⟩ s
      (fun t => { (drawByte t).2 with
        stage := if (drawByte t).1.getLsbD 1 then .frame else .wgWren })
      (fun rx t => { t with stage := if (rx.headD 0).getLsbD 1 then .frame else .wgWren }))

/-- R128: the busy-gate's decision depends on bit 0 of the status byte alone and the write-gate's on bit
1 alone: with bit 1 set it proceeds whatever bit 0 is. -/
def Obligations.GatesReadOneBitEach : Prop :=
  ∀ (b c : Byte) (h : Nat) (s : State),
    (b.getLsbD 0 = c.getLsbD 0 → busyDecide h b s = busyDecide h c s) ∧
    (b.getLsbD 1 = c.getLsbD 1 → wgDecide h b s = wgDecide h c s) ∧
    (b.getLsbD 1 = true → wgDecide h b s = advance h [] s)

/-- R122: as long as every poll reads bit 0 set, with full counts, the busy-gate stands at its stage,
for any number of polls, each one RDSR1 transaction; the owner keeps the engine. -/
def Obligations.BusyGatePollsWithoutLimit : Prop :=
  ∀ (s : State) (h : Nat) (busy : List Byte) (rest : List Answer),
    s.turns = [] → s.csN = 1 → s.owner = some h → (s.stage = .preBg ∨ s.stage = .postBg) →
    s.stage ∈ stageRow Config.wrsrWait (decodeRequest s.op) →
    (∀ b ∈ busy, b.getLsbD 0 = true) → s.answers = pollScript busy ++ rest →
    steps busy.length s = .next { s with
      trace := s.trace ++ pollEvents h s.stage busy
      answers := rest
      draws := s.draws + 2 * busy.length }

/-- R122: the number of polls a busy-gate makes is the place, counting from 1, of the first poll whose
byte has bit 0 clear; the gate then goes on to the next stage, or answers OK at END. -/
def Obligations.BusyGateExitsAtTheFirstClearPoll : Prop :=
  ∀ (s : State) (h : Nat) (busy : List Byte) (clear : Byte) (rest : List Answer),
    s.turns = [] → s.csN = 1 → s.owner = some h → (s.stage = .preBg ∨ s.stage = .postBg) →
    s.stage ∈ stageRow Config.wrsrWait (decodeRequest s.op) →
    (∀ b ∈ busy, b.getLsbD 0 = true) → clear.getLsbD 0 = false →
    s.answers = pollScript (busy ++ [clear]) ++ rest →
    steps (busy.length + 1) s = .next (advance h [] { s with
      trace := s.trace ++ pollEvents h s.stage (busy ++ [clear])
      answers := rest
      draws := s.draws + 2 * (busy.length + 1) })

/-- R125: as long as every poll reads bit 1 clear, with full counts, the write-gate alternates WREN and
RDSR1 without limit, starting with WREN; a poll with bit 1 set ends it at FRAME, after as many WRENs as
polls. -/
def Obligations.WriteGateAlternatesUntilEnabled : Prop :=
  ∀ (s : State) (h : Nat) (off : List Byte) (on : Byte) (rest : List Answer),
    s.turns = [] → s.csN = 1 → s.owner = some h → s.stage = .wgWren →
    s.stage ∈ stageRow Config.wrsrWait (decodeRequest s.op) →
    (∀ b ∈ off, b.getLsbD 1 = false) → on.getLsbD 1 = true →
    s.answers = wgScript (off ++ [on]) ++ rest →
    steps (2 * off.length) s = .next { s with
      trace := s.trace ++ wgEvents h off
      answers := wgScript [on] ++ rest
      draws := s.draws + 3 * off.length } ∧
    steps (2 * (off.length + 1)) s = .next { s with
      stage := .frame
      trace := s.trace ++ wgEvents h (off ++ [on])
      answers := rest
      draws := s.draws + 3 * (off.length + 1) }

/-! ### The operations, stage by stage -/

/-- R142: IDENTIFY is its FRAME step alone: RDID, receive 3; OK with the three bytes as received, or
TRANSACTION. The wire frame RDID does the same. -/
def Obligations.IdentifyReportsTheThreeBytes : Prop :=
  (∀ wait, stageRow wait .identify = [.frame]) ∧
  ∀ (s : State) (h : Nat), s.owner = some h → s.op.cmd = 0x1 → s.stage = .frame →
    exec .identify s = .next (sentThen h ⟨[0x9F], .rx 3⟩ s fun rx t => answered h .ok .noCause rx t) ∧
    exec .rdid s = exec .identify s

/-- R143: READ is a busy-gate and its frame: opcode 0x03, the three address bytes, receive `rlen`; OK
with the bytes received, or TRANSACTION. With `rlen` 0 the frame is the command phase alone. -/
def Obligations.ReadReturnsTheBytes : Prop :=
  (∀ wait a n, stageRow wait (.read a n) = [.preBg, .frame]) ∧
  ∀ (s : State) (h : Nat), s.owner = some h → s.op.cmd = 0x2 →
    (s.stage = .preBg →
      exec (.read s.op.addr s.op.rlen) s = .next (busyPoll Config.gateErrPolicy h s)) ∧
    (s.stage = .frame →
      exec (.read s.op.addr s.op.rlen) s = .next (sentThen h
        ⟨[0x03, s.op.addr.extractLsb' 16 8, s.op.addr.extractLsb' 8 8, s.op.addr.extractLsb' 0 8],
          .rx s.op.rlen⟩ s fun rx t => answered h .ok .noCause rx t) ∧
      exec (.readData s.op.addr s.op.rlen) s = exec (.read s.op.addr s.op.rlen) s)

/-- R144, R147: PROGRAM is a busy-gate, a write-gate and its frame: opcode 0x02, the three address bytes
and the payload, unchanged and in one cycle whatever its length and the page; OK with no data, or
TRANSACTION; no busy-gate after it. -/
def Obligations.ProgramSendsThePayload : Prop :=
  (∀ wait a ds, stageRow wait (.program a ds) = [.preBg, .wgWren, .wgPoll, .frame]) ∧
  ∀ (s : State) (h : Nat), s.owner = some h → s.op.cmd = 0x3 →
    (s.stage = .preBg →
      exec (.program s.op.addr s.op.wdata) s = .next (busyPoll Config.gateErrPolicy h s)) ∧
    (s.stage = .wgWren →
      exec (.program s.op.addr s.op.wdata) s = .next (wgEnable Config.gateErrPolicy h s)) ∧
    (s.stage = .wgPoll →
      exec (.program s.op.addr s.op.wdata) s = .next (wgPoll Config.gateErrPolicy h s)) ∧
    (s.stage = .frame →
      exec (.program s.op.addr s.op.wdata) s = .next (sentThen h
        ⟨[0x02, s.op.addr.extractLsb' 16 8, s.op.addr.extractLsb' 8 8, s.op.addr.extractLsb' 0 8],
          .tx s.op.wdata⟩ s fun _ t => answered h .ok .noCause [] t) ∧
      exec (.pp s.op.addr s.op.wdata) s = exec (.program s.op.addr s.op.wdata) s)

/-- R145: ERASE_SECTOR is a busy-gate, a write-gate, its frame (opcode 0x20 and the bytes of the sector
address, truncated to 24 bits) and a busy-gate after it; a frame error skips that one. -/
def Obligations.EraseSectorWaitsAfterItsFrame : Prop :=
  (∀ wait k, stageRow wait (.eraseSector k) = [.preBg, .wgWren, .wgPoll, .frame, .postBg]) ∧
  ∀ (s : State) (h : Nat), s.owner = some h → s.op.cmd = 0x4 →
    ((s.stage = .preBg ∨ s.stage = .postBg) →
      exec (.eraseSector s.op.sector) s = .next (busyPoll Config.gateErrPolicy h s)) ∧
    (s.stage = .wgWren →
      exec (.eraseSector s.op.sector) s = .next (wgEnable Config.gateErrPolicy h s)) ∧
    (s.stage = .wgPoll →
      exec (.eraseSector s.op.sector) s = .next (wgPoll Config.gateErrPolicy h s)) ∧
    (∀ a : Addr, a.toNat = (s.op.sector.toNat * 4096) % 2 ^ 24 → s.stage = .frame →
      exec (.eraseSector s.op.sector) s = .next (sentThen h
        ⟨[0x20, a.extractLsb' 16 8, a.extractLsb' 8 8, a.extractLsb' 0 8], .noData⟩ s
        fun _ t => { t with stage := .postBg }) ∧
      exec (.se a) s = exec (.eraseSector s.op.sector) s)

/-- R146: ERASE_CHIP is a busy-gate, a write-gate, the frame 0xC7 and a busy-gate after it; a frame error
skips that one. -/
def Obligations.EraseChipWaitsAfterItsFrame : Prop :=
  (∀ wait, stageRow wait .eraseChip = [.preBg, .wgWren, .wgPoll, .frame, .postBg]) ∧
  ∀ (s : State) (h : Nat), s.owner = some h → s.op.cmd = 0x5 →
    ((s.stage = .preBg ∨ s.stage = .postBg) →
      exec .eraseChip s = .next (busyPoll Config.gateErrPolicy h s)) ∧
    (s.stage = .wgWren → exec .eraseChip s = .next (wgEnable Config.gateErrPolicy h s)) ∧
    (s.stage = .wgPoll → exec .eraseChip s = .next (wgPoll Config.gateErrPolicy h s)) ∧
    (s.stage = .frame →
      exec .eraseChip s = .next (sentThen h ⟨[0xC7], .noData⟩ s fun _ t =>
        { t with stage := .postBg }) ∧
      exec .ce s = exec .eraseChip s)

/-- R148: WRITE_SR is a write-gate (with a busy-gate before it when `WRSR_WAIT` is true) and its frame:
opcode 0x01, then `sr1v` and `sr2v` unchanged; OK with no data, or TRANSACTION. -/
def Obligations.WriteSrSendsBothBytes : Prop :=
  (∀ v1 v2, stageRow false (.writeSr v1 v2) = [.wgWren, .wgPoll, .frame]) ∧
  (∀ v1 v2, stageRow true (.writeSr v1 v2) = [.preBg, .wgWren, .wgPoll, .frame]) ∧
  ∀ (s : State) (h : Nat), s.owner = some h → s.op.cmd = 0x6 →
    (s.stage = .preBg →
      if Config.wrsrWait then
        exec (.writeSr s.op.sr1v s.op.sr2v) s = .next (busyPoll Config.gateErrPolicy h s)
      else True) ∧
    (s.stage = .wgWren →
      exec (.writeSr s.op.sr1v s.op.sr2v) s = .next (wgEnable Config.gateErrPolicy h s)) ∧
    (s.stage = .wgPoll →
      exec (.writeSr s.op.sr1v s.op.sr2v) s = .next (wgPoll Config.gateErrPolicy h s)) ∧
    (s.stage = .frame →
      exec (.writeSr s.op.sr1v s.op.sr2v) s = .next (sentThen h
        ⟨[0x01], .tx [s.op.sr1v, s.op.sr2v]⟩ s fun _ t => answered h .ok .noCause [] t) ∧
      exec (.wrsr s.op.sr1v s.op.sr2v) s = exec (.writeSr s.op.sr1v s.op.sr2v) s)

/-- R149: WRITE_ENABLE is the frame 0x06 alone: it reads no status; OK with no data, or TRANSACTION. -/
def Obligations.WriteEnableSendsWren : Prop :=
  (∀ wait, stageRow wait .writeEnable = [.frame]) ∧
  ∀ (s : State) (h : Nat), s.owner = some h → s.op.cmd = 0x7 → s.stage = .frame →
    exec .writeEnable s = .next (sentThen h ⟨[0x06], .noData⟩ s fun _ t =>
      answered h .ok .noCause [] t) ∧
    exec .wren s = exec .writeEnable s

/-- R150: WRITE_DISABLE is the frame 0x04 alone, whatever the chip's WEL; OK with no data, or
TRANSACTION. -/
def Obligations.WriteDisableSendsWrdi : Prop :=
  (∀ wait, stageRow wait .writeDisable = [.frame]) ∧
  ∀ (s : State) (h : Nat), s.owner = some h → s.op.cmd = 0x8 → s.stage = .frame →
    exec .writeDisable s = .next (sentThen h ⟨[0x04], .noData⟩ s fun _ t =>
      answered h .ok .noCause [] t) ∧
    exec .wrdi s = exec .writeDisable s

/-- R151: READ_SR1 is the frame 0x05, receive 1; OK with the byte whole as received, or TRANSACTION. -/
def Obligations.ReadSr1ReportsTheByte : Prop :=
  (∀ wait, stageRow wait .readSr1 = [.frame]) ∧
  ∀ (s : State) (h : Nat), s.owner = some h → s.op.cmd = 0x9 → s.stage = .frame →
    exec .readSr1 s = .next (sentThen h ⟨[0x05], .rx 1⟩ s fun rx t => answered h .ok .noCause rx t) ∧
    exec .rdsr1 s = exec .readSr1 s

/-- R152: READ_SR2 is the frame 0x35, receive 1; OK with the byte as received, or TRANSACTION. -/
def Obligations.ReadSr2ReportsTheByte : Prop :=
  (∀ wait, stageRow wait .readSr2 = [.frame]) ∧
  ∀ (s : State) (h : Nat), s.owner = some h → s.op.cmd = 0xA → s.stage = .frame →
    exec .readSr2 s = .next (sentThen h ⟨[0x35], .rx 1⟩ s fun rx t => answered h .ok .noCause rx t) ∧
    exec .rdsr2 s = exec .readSr2 s

/-- R180, R181: INIT's first step sends 0x66 and goes to RST, its second sends 0x99, in its own cycle, and
goes to FRAME; a failure answers TRANSACTION and the rest is not sent. -/
def Obligations.InitSendsTheResetPair : Prop :=
  (∀ wait, stageRow wait .init = [.rsten, .rst, .frame]) ∧
  ∀ (s : State) (h : Nat), s.owner = some h → s.op.cmd = 0xB →
    (s.stage = .rsten →
      exec .init s = .next (sentThen h ⟨[0x66], .noData⟩ s fun _ t => { t with stage := .rst }) ∧
      exec .rsten s = exec .init s) ∧
    (s.stage = .rst →
      exec .init s = .next (sentThen h ⟨[0x99], .noData⟩ s fun _ t => { t with stage := .frame }) ∧
      exec .rst s = exec .init s)

/-- R182, R183: INIT's third step reads three bytes and answers OK exactly when they are 0xEF, 0x40, 0x17
in this order, else ID_MISMATCH, with the three bytes on both outcomes; TRANSACTION when the frame
failed. -/
def Obligations.InitComparesTheIdentity : Prop :=
  ∀ (s : State) (h : Nat), s.owner = some h → s.op.cmd = 0xB → s.stage = .frame →
    exec .init s = .next (sentThen h ⟨[0x9F], .rx 3⟩ s fun rx t =>
      if rx = [0xEF, 0x40, 0x17] then answered h .ok .noCause rx t
      else answered h .error .idMismatch rx t) ∧
    exec .rdid s = exec .init s

/-! ### Encoding -/

/-- Decoding an encoded instruction gives it back, for every instruction and every value of its operands:
the sixteen host requests and the twelve wire frames. -/
def Obligations.DecodeEncodeGivesTheInstruction : Prop :=
  ∀ i : Instr, i.wf = true → decode (encode i) = .ok i

/-- A reader of the wire that delimits one chip-select cycle by byte 0 gets back the frame's instruction
from the cycle's bytes, whatever the fill byte is (R81, R100). -/
def Obligations.WireReaderRecoversTheFrame : Prop :=
  ∀ (i : Instr) (f : Frame) (fill : Byte), i.wf = true → encode i = .frame f →
    decodeCycle (cycleBytes fill f) = .ok i

/-- Every frame that decodes is the encoding of what it decodes to: nothing but the twelve frames of R84
to R95 decodes. -/
def Obligations.OnlyEncodedFramesDecode : Prop :=
  ∀ (f : Frame) (i : Instr), decodeFrame f = .ok i → encode i = .frame f

/-- R82: the address bytes are bits 23 to 16, 15 to 8 and 7 to 0 of the address, in this order after the
opcode; READ and PROGRAM take the request's address as it is, ERASE_SECTOR that of its sector (R83). -/
def Obligations.AddressBytesMostSignificantFirst : Prop :=
  (∀ a : Addr, addrBytes a = [a.extractLsb' 16 8, a.extractLsb' 8 8, a.extractLsb' 0 8]) ∧
  (∀ a n, ownFrame (.read a n) = some (.readData a n) ∧
    encode (.readData a n) = .frame ⟨0x03 :: addrBytes a, .rx n⟩) ∧
  (∀ a ds, ownFrame (.program a ds) = some (.pp a ds) ∧
    encode (.pp a ds) = .frame ⟨0x02 :: addrBytes a, .tx ds⟩) ∧
  ∀ k, ownFrame (.eraseSector k) = some (.se (sectorAddr k)) ∧
    encode (.se (sectorAddr k)) = .frame ⟨0x20 :: addrBytes (sectorAddr k), .noData⟩

/-- R83: the sector address is the sector number times 4096, truncated to 24 bits; its bytes are bits
11 to 4, bits 3 to 0 shifted left by 4, and 0; numbers equal modulo 4096 address the same bytes. -/
def Obligations.SectorAddressIsTruncated : Prop :=
  (∀ k : Sector, (sectorAddr k).toNat = (k.toNat * 4096) % 2 ^ 24) ∧
  (∀ k : Sector, addrBytes (sectorAddr k) = [k.extractLsb' 4 8, k.extractLsb' 0 8 <<< 4, 0x00]) ∧
  ∀ j k : Sector, j.toNat % 4096 = k.toNat % 4096 → sectorAddr j = sectorAddr k

/-- R97: the command codes. -/
def Obligations.CommandCodesSelectTheOperations : Prop :=
  ∀ q : Request,
    (q.cmd = 0x0 → decodeRequest q = .reserved0) ∧
    (q.cmd = 0x1 → decodeRequest q = .identify) ∧
    (q.cmd = 0x2 → decodeRequest q = .read q.addr q.rlen) ∧
    (q.cmd = 0x3 → decodeRequest q = .program q.addr q.wdata) ∧
    (q.cmd = 0x4 → decodeRequest q = .eraseSector q.sector) ∧
    (q.cmd = 0x5 → decodeRequest q = .eraseChip) ∧
    (q.cmd = 0x6 → decodeRequest q = .writeSr q.sr1v q.sr2v) ∧
    (q.cmd = 0x7 → decodeRequest q = .writeEnable) ∧
    (q.cmd = 0x8 → decodeRequest q = .writeDisable) ∧
    (q.cmd = 0x9 → decodeRequest q = .readSr1) ∧
    (q.cmd = 0xA → decodeRequest q = .readSr2) ∧
    (q.cmd = 0xB → decodeRequest q = .init) ∧
    (q.cmd = 0xC → decodeRequest q = .reservedC) ∧
    (q.cmd = 0xD → decodeRequest q = .reservedD) ∧
    (q.cmd = 0xE → decodeRequest q = .reservedE) ∧
    (q.cmd = 0xF → decodeRequest q = .reservedF)

/-- R26, R98: a request field that the operation does not read has no effect: after the grant, an engine
step under another latched request that selects the same operation with the same read fields does the
same, but for the latched request itself. -/
def Obligations.UnreadRequestFieldsHaveNoEffect : Prop :=
  ∀ (s t : State) (q : Request), s.stage ≠ .idle → decodeRequest q = decodeRequest s.op →
    engineStep s = .next t → engineStep { s with op := q } = .next { t with op := q }

/-- R96: the mutating frames are exactly WRSR, PP, SE and CE. -/
def Obligations.MutatingFramesAreFour : Prop :=
  ∀ (i : Instr) (f : Frame), encode i = .frame f →
    (mutatingCmd f.cmd = true ↔
      (∃ d0 d1, i = .wrsr d0 d1) ∨ (∃ a ds, i = .pp a ds) ∨ (∃ a, i = .se a) ∨ i = .ce)

/-- R68: how many bytes each operation's own frame sends and receives, INIT's two reset frames, a gate's
poll and its WREN. -/
def Obligations.BytesMovedByEachOperation : Prop :=
  (∀ (i j : Instr) (f : Frame), ownFrame i = some j → encode j = .frame f →
    (bytesSent f, bytesReceived f) =
      match i with
      | .identify => (1, 3)
      | .read _ n => (4, n)
      | .program _ ds => (4 + ds.length, 0)
      | .eraseSector _ => (4, 0)
      | .eraseChip => (1, 0)
      | .writeSr _ _ => (3, 0)
      | .writeEnable => (1, 0)
      | .writeDisable => (1, 0)
      | .readSr1 => (1, 1)
      | .readSr2 => (1, 1)
      | .init => (1, 3)
      | _ => (0, 0)) ∧
  ∀ (wait : Bool) (i j : Instr) (st : Stage) (f : Frame), st ≠ .frame → stageFrame wait i st = some j →
    encode j = .frame f →
    (bytesSent f, bytesReceived f) =
      if st = .preBg ∨ st = .wgPoll ∨ st = .postBg then (1, 1) else (1, 0)

/-- R84 to R95: a few words written out decode to the instruction they stand for, requests and
frames. -/
def Obligations.WrittenWordsDecode : Prop :=
  decodeCycle [0x06] = .ok .wren ∧ decodeCycle [0x05, 0xFF] = .ok .rdsr1 ∧
  decodeCycle [0x01, 0x00, 0x02] = .ok (.wrsr 0x00 0x02) ∧
  decodeCycle [0x03, 0x12, 0x34, 0x56, 0xDE, 0xAD] = .ok (.readData 0x123456 2) ∧
  decodeCycle [0x02, 0x00, 0x10, 0x00, 0xAA, 0xBB] = .ok (.pp 0x001000 [0xAA, 0xBB]) ∧
  decodeCycle [0x20, 0xFF, 0xF0, 0x00] = .ok (.se 0xFFF000) ∧
  decodeCycle [0x9F, 0xEF, 0x40, 0x17] = .ok .rdid ∧
  decodeCycle [0xAB] = .error (.unknownOpcode 0xAB) ∧
  decodeRequest { Request.zero with cmd := 0x4, sector := 0x0002 } = .eraseSector 0x0002

/-- R84 to R95: the bytes of each frame, which of them are mutating, and which operation and stage send
each. -/
def Obligations.FramesAreEmittedByTheirStages : Prop :=
  (∀ (d0 d1 : Byte) (a : Addr) (n : Nat) (ds : List Byte),
    encode .wren = .frame ⟨[0x06], .noData⟩ ∧ encode .wrdi = .frame ⟨[0x04], .noData⟩ ∧
    encode .rdsr1 = .frame ⟨[0x05], .rx 1⟩ ∧ encode .rdsr2 = .frame ⟨[0x35], .rx 1⟩ ∧
    encode (.wrsr d0 d1) = .frame ⟨[0x01], .tx [d0, d1]⟩ ∧
    encode (.readData a n) = .frame ⟨0x03 :: addrBytes a, .rx n⟩ ∧
    encode (.pp a ds) = .frame ⟨0x02 :: addrBytes a, .tx ds⟩ ∧
    encode (.se a) = .frame ⟨0x20 :: addrBytes a, .noData⟩ ∧
    encode .ce = .frame ⟨[0xC7], .noData⟩ ∧ encode .rsten = .frame ⟨[0x66], .noData⟩ ∧
    encode .rst = .frame ⟨[0x99], .noData⟩ ∧ encode .rdid = .frame ⟨[0x9F], .rx 3⟩ ∧
    mutatingCmd [0x01] = true ∧ mutatingCmd (0x02 :: addrBytes a) = true ∧
    mutatingCmd (0x20 :: addrBytes a) = true ∧ mutatingCmd [0xC7] = true) ∧
  ∀ (wait : Bool) (i j : Instr) (st : Stage), stageFrame wait i st = some j ↔
    st ∈ stageRow wait i ∧
      ((st = .wgWren ∧ j = .wren) ∨
       ((st = .preBg ∨ st = .wgPoll ∨ st = .postBg) ∧ j = .rdsr1) ∨
       (st = .rsten ∧ j = .rsten) ∨ (st = .rst ∧ j = .rst) ∨
       (st = .frame ∧
         ((i = .writeEnable ∧ j = .wren) ∨ (i = .writeDisable ∧ j = .wrdi) ∨
          (i = .readSr1 ∧ j = .rdsr1) ∨ (i = .readSr2 ∧ j = .rdsr2) ∨
          ((i = .identify ∨ i = .init) ∧ j = .rdid) ∨ (i = .eraseChip ∧ j = .ce) ∨
          (∃ v1 v2, i = .writeSr v1 v2 ∧ j = .wrsr v1 v2) ∨
          (∃ a n, i = .read a n ∧ j = .readData a n) ∨
          (∃ a ds, i = .program a ds ∧ j = .pp a ds) ∨
          (∃ k, i = .eraseSector k ∧ j = .se (sectorAddr k)))))

/-! ### Invariants and whole-machine rules -/

/-- Every invariant of the model holds right after reset. -/
def Obligations.InvariantsHoldAtReset : Prop :=
  StateInv State.reset ∧ EventsInv State.reset ∧ OwnershipInv State.reset ∧
    WriteGateInv State.reset ∧ BusyGateInv State.reset

/-- R22, R23, R28, R195: every step of every agent keeps the invariant of the state. -/
def Obligations.StepKeepsTheStateInvariant : Prop :=
  ∀ s t : State, StateInv s → step s = .next t → StateInv t

/-- R80, R31, R32: every step keeps the events and the responses as the block writes them: each
transaction carries one of the twelve frames, and BUSY is never written. -/
def Obligations.StepEmitsOnlyTheSpecifiedEvents : Prop :=
  ∀ s t : State, EventsInv s → step s = .next t → EventsInv t

/-- R199: every step keeps the trace exclusive: each transaction lies between a grant and the next
response or reset, and carries the granted host. -/
def Obligations.StepKeepsChipSelectExclusive : Prop :=
  ∀ s t : State, OwnershipInv s → step s = .next t → OwnershipInv t

/-- R153: every step keeps the write-gate property: a mutating frame comes right after the write-gate
poll of the same owner that saw WEL = 1 (or, under `IGNORE` only, failed). -/
def Obligations.StepKeepsTheWriteGateProperty : Prop :=
  ∀ s t : State, WriteGateInv s → step s = .next t → WriteGateInv t

/-- R154: every step keeps the busy-gate property as far as the block enforces it: a READ frame, and the
first WREN after a pre-gate, come right after the pre-gate poll that saw WIP = 0 (or, under `IGNORE`
only, failed). -/
def Obligations.StepKeepsTheBusyGateProperty : Prop :=
  ∀ s t : State, BusyGateInv s → step s = .next t → BusyGateInv t

/-- R38: the trace only grows; a step appends at most one transaction (R119). -/
def Obligations.TraceOnlyGrows : Prop :=
  ∀ s t : State, step s = .next t →
    ∃ es, t.trace = s.trace ++ es ∧ (es.filter isTxn).length ≤ 1

/-- R193: while a host owns the engine every step keeps it the owner with its request, or ends its
operation; every event of the step is its own transaction or response, or a reset. -/
def Obligations.OwnerKeepsTheEngine : Prop :=
  ∀ (s t : State) (h : Nat), s.owner = some h → s.stage ≠ .idle → step s = .next t →
    ((t.owner = some h ∧ t.op = s.op ∧ t.stage ≠ .idle) ∨ (t.owner = none ∧ t.stage = .idle)) ∧
    ∃ es, t.trace = s.trace ++ es ∧
      ∀ e ∈ es, e = .reset ∨ (∃ r, e = .resp h r) ∨
        ∃ st cmd d n1 n2 rx ok, e = .txn h st cmd d n1 n2 rx ok

/-- R25: no rule reads `op` while `stage = IDLE`: a step from two states that differ in `op` alone
answers next states that differ in `op` alone. -/
def Obligations.IdleStepDoesNotReadTheLatchedRequest : Prop :=
  ∀ (s : State) (q : Request), s.stage = .idle →
    ∃ t u, step s = .next t ∧ step { s with op := q } = .next u ∧
      { t with op := Request.zero } = { u with op := Request.zero }

/-- R24, R140: the step of a host operation in a stage after the grant is the step of the wire frame that
the sequencer sends there, and that is what the engine runs. -/
def Obligations.OperationStepIsItsFrameStep : Prop :=
  ∀ (s : State) (j : Instr), s.stage ≠ .idle → currentFrame s = some j →
    exec (decodeRequest s.op) s = exec j s ∧ engineStep s = exec j s

/-- The frame of every instruction: the agenda is unchanged, the latched request changes in a grant only,
the trace grows, the oracle's answers are used in order, and the slots of every host but the one
granted or served are unchanged. -/
def Obligations.ExecLeavesTheRestUnchanged : Prop :=
  ∀ (i : Instr) (s t : State), exec i s = .next t →
    t.turns = s.turns ∧ (s.stage ≠ .idle → t.op = s.op) ∧ s.trace <+: t.trace ∧
    s.draws ≤ t.draws ∧ t.answers = s.answers.drop (t.draws - s.draws) ∧
    (s.stage = .idle → t.csN = s.csN ∧ t.draws = s.draws) ∧ (s.stage ≠ .idle → t.csN = 1) ∧
    ∀ j, (s.stage = .idle → ∀ q, arbitrate s ≠ some (j, q)) → (s.stage ≠ .idle → s.owner ≠ some j) →
      slotGet t.pend j = slotGet s.pend j ∧ slotGet t.resp j = slotGet s.resp j

/-- R155 for ERASE_SECTOR, on the listed answers of the model's oracle (log entry 4): with full counts, polls of
the pre-gate, of the write-gate and of the post-gate that end as their gates require, the operation ends
with OK after exactly `b1 + 2w + 1 + b2` chip-select cycles, in that order and with these bytes. -/
def Obligations.EraseSectorCycleCount : Prop :=
  ∀ (s : State) (h : Nat) (pre off post : List Byte) (clear on done : Byte) (rest : List Answer),
    s.turns = [] → s.csN = 1 → s.owner = some h → s.op.cmd = 0x4 → s.stage = .preBg →
    (∀ b ∈ pre, b.getLsbD 0 = true) → clear.getLsbD 0 = false →
    (∀ b ∈ off, b.getLsbD 1 = false) → on.getLsbD 1 = true →
    (∀ b ∈ post, b.getLsbD 0 = true) → done.getLsbD 0 = false →
    s.answers = pollScript (pre ++ [clear]) ++ wgScript (off ++ [on]) ++ [⟨4, []⟩]
      ++ pollScript (post ++ [done]) ++ rest →
    steps
      ((pre.length + 1) + 2 * (off.length + 1) + 1 + (post.length + 1)) s =
      .next (answered h .ok .noCause [] { s with
        trace := s.trace ++ pollEvents h .preBg (pre ++ [clear]) ++ wgEvents h (off ++ [on])
          ++ [.txn h .frame (0x20 :: addrBytes (sectorAddr s.op.sector)) .noData 4 none [] true]
          ++ pollEvents h .postBg (post ++ [done])
        answers := rest
        draws := s.draws + 2 * (pre.length + 1) + 3 * (off.length + 1) + 1
          + 2 * (post.length + 1) })

/-- R254: under `CHIP_WIP_CLEARS` and `CHIP_WEL_SETS`, a granted operation that no block reset cuts ends with
its response after finitely many steps, and its events before it are transactions; with full counts the
response is OK, or INIT's ID_MISMATCH. The agenda is a list and the engine moves once it is used up (log
entry 1), so the engine's steps are scheduled fairly; how the premises count polls is log entry 21. -/
def Obligations.GrantedOperationEnds : Prop :=
  ∀ (s : State) (h : Nat), StateInv s → s.owner = some h → Turn.reset ∉ s.turns →
    chipWipClears s → chipWelSets s →
    ∃ n t es r, steps n s = .next t ∧ t.owner = none ∧ t.stage = .idle ∧
      slotGet t.resp h = some r ∧ t.trace = s.trace ++ es ++ [.resp h r] ∧
      (∀ e ∈ es, isTxn e = true) ∧
      (chipFullCounts es →
        r.result = .ok ∨ (decodeRequest s.op = .init ∧ r.result = .error ∧ r.cause = .idMismatch))
end

