-- ==== Sys2Proof/Laws/State.lean ====
section
/-! SUPPORT. One lemma per field per update of the state, each true by rfl. -/

namespace Sys2Proof.Machine

@[simp] theorem State.select_csN (s : State) : (s.select).csN = 0 := rfl
@[simp] theorem State.select_owner (s : State) : (s.select).owner = s.owner := rfl
@[simp] theorem State.select_stage (s : State) : (s.select).stage = s.stage := rfl
@[simp] theorem State.select_op (s : State) : (s.select).op = s.op := rfl
@[simp] theorem State.select_pend (s : State) : (s.select).pend = s.pend := rfl
@[simp] theorem State.select_resp (s : State) : (s.select).resp = s.resp := rfl
@[simp] theorem State.select_trace (s : State) : (s.select).trace = s.trace := rfl
@[simp] theorem State.select_answers (s : State) : (s.select).answers = s.answers := rfl
@[simp] theorem State.select_draws (s : State) : (s.select).draws = s.draws := rfl
@[simp] theorem State.select_turns (s : State) : (s.select).turns = s.turns := rfl

@[simp] theorem State.deselect_csN (s : State) : (s.deselect).csN = 1 := rfl
@[simp] theorem State.deselect_owner (s : State) : (s.deselect).owner = s.owner := rfl
@[simp] theorem State.deselect_stage (s : State) : (s.deselect).stage = s.stage := rfl
@[simp] theorem State.deselect_op (s : State) : (s.deselect).op = s.op := rfl
@[simp] theorem State.deselect_pend (s : State) : (s.deselect).pend = s.pend := rfl
@[simp] theorem State.deselect_resp (s : State) : (s.deselect).resp = s.resp := rfl
@[simp] theorem State.deselect_trace (s : State) : (s.deselect).trace = s.trace := rfl
@[simp] theorem State.deselect_answers (s : State) : (s.deselect).answers = s.answers := rfl
@[simp] theorem State.deselect_draws (s : State) : (s.deselect).draws = s.draws := rfl
@[simp] theorem State.deselect_turns (s : State) : (s.deselect).turns = s.turns := rfl

@[simp] theorem State.emit_csN (s : State) (e : Event) : (s.emit e).csN = s.csN := rfl
@[simp] theorem State.emit_owner (s : State) (e : Event) : (s.emit e).owner = s.owner := rfl
@[simp] theorem State.emit_stage (s : State) (e : Event) : (s.emit e).stage = s.stage := rfl
@[simp] theorem State.emit_op (s : State) (e : Event) : (s.emit e).op = s.op := rfl
@[simp] theorem State.emit_pend (s : State) (e : Event) : (s.emit e).pend = s.pend := rfl
@[simp] theorem State.emit_resp (s : State) (e : Event) : (s.emit e).resp = s.resp := rfl
@[simp] theorem State.emit_trace (s : State) (e : Event) : (s.emit e).trace = s.trace ++ [e] := rfl
@[simp] theorem State.emit_answers (s : State) (e : Event) : (s.emit e).answers = s.answers := rfl
@[simp] theorem State.emit_draws (s : State) (e : Event) : (s.emit e).draws = s.draws := rfl
@[simp] theorem State.emit_turns (s : State) (e : Event) : (s.emit e).turns = s.turns := rfl

@[simp] theorem State.goto_csN (s : State) (st : Stage) : (s.goto st).csN = s.csN := rfl
@[simp] theorem State.goto_owner (s : State) (st : Stage) : (s.goto st).owner = s.owner := rfl
@[simp] theorem State.goto_stage (s : State) (st : Stage) : (s.goto st).stage = st := rfl
@[simp] theorem State.goto_op (s : State) (st : Stage) : (s.goto st).op = s.op := rfl
@[simp] theorem State.goto_pend (s : State) (st : Stage) : (s.goto st).pend = s.pend := rfl
@[simp] theorem State.goto_resp (s : State) (st : Stage) : (s.goto st).resp = s.resp := rfl
@[simp] theorem State.goto_trace (s : State) (st : Stage) : (s.goto st).trace = s.trace := rfl
@[simp] theorem State.goto_answers (s : State) (st : Stage) : (s.goto st).answers = s.answers := rfl
@[simp] theorem State.goto_draws (s : State) (st : Stage) : (s.goto st).draws = s.draws := rfl
@[simp] theorem State.goto_turns (s : State) (st : Stage) : (s.goto st).turns = s.turns := rfl

@[simp] theorem State.latch_csN (s : State) (h : Nat) (q : Request) :
    (s.latch h q).csN = s.csN := rfl
@[simp] theorem State.latch_owner (s : State) (h : Nat) (q : Request) :
    (s.latch h q).owner = some h := rfl
@[simp] theorem State.latch_stage (s : State) (h : Nat) (q : Request) :
    (s.latch h q).stage = s.stage := rfl
@[simp] theorem State.latch_op (s : State) (h : Nat) (q : Request) : (s.latch h q).op = q := rfl
@[simp] theorem State.latch_pend (s : State) (h : Nat) (q : Request) :
    (s.latch h q).pend = s.pend := rfl
@[simp] theorem State.latch_resp (s : State) (h : Nat) (q : Request) :
    (s.latch h q).resp = s.resp := rfl
@[simp] theorem State.latch_trace (s : State) (h : Nat) (q : Request) :
    (s.latch h q).trace = s.trace := rfl
@[simp] theorem State.latch_answers (s : State) (h : Nat) (q : Request) :
    (s.latch h q).answers = s.answers := rfl
@[simp] theorem State.latch_draws (s : State) (h : Nat) (q : Request) :
    (s.latch h q).draws = s.draws := rfl
@[simp] theorem State.latch_turns (s : State) (h : Nat) (q : Request) :
    (s.latch h q).turns = s.turns := rfl

@[simp] theorem State.release_csN (s : State) : (s.release).csN = s.csN := rfl
@[simp] theorem State.release_owner (s : State) : (s.release).owner = none := rfl
@[simp] theorem State.release_stage (s : State) : (s.release).stage = .idle := rfl
@[simp] theorem State.release_op (s : State) : (s.release).op = s.op := rfl
@[simp] theorem State.release_pend (s : State) : (s.release).pend = s.pend := rfl
@[simp] theorem State.release_resp (s : State) : (s.release).resp = s.resp := rfl
@[simp] theorem State.release_trace (s : State) : (s.release).trace = s.trace := rfl
@[simp] theorem State.release_answers (s : State) : (s.release).answers = s.answers := rfl
@[simp] theorem State.release_draws (s : State) : (s.release).draws = s.draws := rfl
@[simp] theorem State.release_turns (s : State) : (s.release).turns = s.turns := rfl

@[simp] theorem State.fillPend_csN (s : State) (h : Nat) (q : Request) :
    (s.fillPend h q).csN = s.csN := rfl
@[simp] theorem State.fillPend_owner (s : State) (h : Nat) (q : Request) :
    (s.fillPend h q).owner = s.owner := rfl
@[simp] theorem State.fillPend_stage (s : State) (h : Nat) (q : Request) :
    (s.fillPend h q).stage = s.stage := rfl
@[simp] theorem State.fillPend_op (s : State) (h : Nat) (q : Request) :
    (s.fillPend h q).op = s.op := rfl
@[simp] theorem State.fillPend_pend (s : State) (h : Nat) (q : Request) :
    (s.fillPend h q).pend = slotPut s.pend h q := rfl
@[simp] theorem State.fillPend_resp (s : State) (h : Nat) (q : Request) :
    (s.fillPend h q).resp = s.resp := rfl
@[simp] theorem State.fillPend_trace (s : State) (h : Nat) (q : Request) :
    (s.fillPend h q).trace = s.trace := rfl
@[simp] theorem State.fillPend_answers (s : State) (h : Nat) (q : Request) :
    (s.fillPend h q).answers = s.answers := rfl
@[simp] theorem State.fillPend_draws (s : State) (h : Nat) (q : Request) :
    (s.fillPend h q).draws = s.draws := rfl
@[simp] theorem State.fillPend_turns (s : State) (h : Nat) (q : Request) :
    (s.fillPend h q).turns = s.turns := rfl

@[simp] theorem State.clearPend_csN (s : State) (h : Nat) : (s.clearPend h).csN = s.csN := rfl
@[simp] theorem State.clearPend_owner (s : State) (h : Nat) : (s.clearPend h).owner = s.owner := rfl
@[simp] theorem State.clearPend_stage (s : State) (h : Nat) : (s.clearPend h).stage = s.stage := rfl
@[simp] theorem State.clearPend_op (s : State) (h : Nat) : (s.clearPend h).op = s.op := rfl
@[simp] theorem State.clearPend_pend (s : State) (h : Nat) :
    (s.clearPend h).pend = slotClear s.pend h := rfl
@[simp] theorem State.clearPend_resp (s : State) (h : Nat) : (s.clearPend h).resp = s.resp := rfl
@[simp] theorem State.clearPend_trace (s : State) (h : Nat) : (s.clearPend h).trace = s.trace := rfl
@[simp] theorem State.clearPend_answers (s : State) (h : Nat) :
    (s.clearPend h).answers = s.answers := rfl
@[simp] theorem State.clearPend_draws (s : State) (h : Nat) : (s.clearPend h).draws = s.draws := rfl
@[simp] theorem State.clearPend_turns (s : State) (h : Nat) : (s.clearPend h).turns = s.turns := rfl

@[simp] theorem State.fillResp_csN (s : State) (h : Nat) (r : Response) :
    (s.fillResp h r).csN = s.csN := rfl
@[simp] theorem State.fillResp_owner (s : State) (h : Nat) (r : Response) :
    (s.fillResp h r).owner = s.owner := rfl
@[simp] theorem State.fillResp_stage (s : State) (h : Nat) (r : Response) :
    (s.fillResp h r).stage = s.stage := rfl
@[simp] theorem State.fillResp_op (s : State) (h : Nat) (r : Response) :
    (s.fillResp h r).op = s.op := rfl
@[simp] theorem State.fillResp_pend (s : State) (h : Nat) (r : Response) :
    (s.fillResp h r).pend = s.pend := rfl
@[simp] theorem State.fillResp_resp (s : State) (h : Nat) (r : Response) :
    (s.fillResp h r).resp = slotPut s.resp h r := rfl
@[simp] theorem State.fillResp_trace (s : State) (h : Nat) (r : Response) :
    (s.fillResp h r).trace = s.trace := rfl
@[simp] theorem State.fillResp_answers (s : State) (h : Nat) (r : Response) :
    (s.fillResp h r).answers = s.answers := rfl
@[simp] theorem State.fillResp_draws (s : State) (h : Nat) (r : Response) :
    (s.fillResp h r).draws = s.draws := rfl
@[simp] theorem State.fillResp_turns (s : State) (h : Nat) (r : Response) :
    (s.fillResp h r).turns = s.turns := rfl

@[simp] theorem State.clearResp_csN (s : State) (h : Nat) : (s.clearResp h).csN = s.csN := rfl
@[simp] theorem State.clearResp_owner (s : State) (h : Nat) : (s.clearResp h).owner = s.owner := rfl
@[simp] theorem State.clearResp_stage (s : State) (h : Nat) : (s.clearResp h).stage = s.stage := rfl
@[simp] theorem State.clearResp_op (s : State) (h : Nat) : (s.clearResp h).op = s.op := rfl
@[simp] theorem State.clearResp_pend (s : State) (h : Nat) : (s.clearResp h).pend = s.pend := rfl
@[simp] theorem State.clearResp_resp (s : State) (h : Nat) :
    (s.clearResp h).resp = slotClear s.resp h := rfl
@[simp] theorem State.clearResp_trace (s : State) (h : Nat) : (s.clearResp h).trace = s.trace := rfl
@[simp] theorem State.clearResp_answers (s : State) (h : Nat) :
    (s.clearResp h).answers = s.answers := rfl
@[simp] theorem State.clearResp_draws (s : State) (h : Nat) : (s.clearResp h).draws = s.draws := rfl
@[simp] theorem State.clearResp_turns (s : State) (h : Nat) : (s.clearResp h).turns = s.turns := rfl

@[simp] theorem State.setTurns_csN (s : State) (rest : List Turn) :
    (s.setTurns rest).csN = s.csN := rfl
@[simp] theorem State.setTurns_owner (s : State) (rest : List Turn) :
    (s.setTurns rest).owner = s.owner := rfl
@[simp] theorem State.setTurns_stage (s : State) (rest : List Turn) :
    (s.setTurns rest).stage = s.stage := rfl
@[simp] theorem State.setTurns_op (s : State) (rest : List Turn) :
    (s.setTurns rest).op = s.op := rfl
@[simp] theorem State.setTurns_pend (s : State) (rest : List Turn) :
    (s.setTurns rest).pend = s.pend := rfl
@[simp] theorem State.setTurns_resp (s : State) (rest : List Turn) :
    (s.setTurns rest).resp = s.resp := rfl
@[simp] theorem State.setTurns_trace (s : State) (rest : List Turn) :
    (s.setTurns rest).trace = s.trace := rfl
@[simp] theorem State.setTurns_answers (s : State) (rest : List Turn) :
    (s.setTurns rest).answers = s.answers := rfl
@[simp] theorem State.setTurns_draws (s : State) (rest : List Turn) :
    (s.setTurns rest).draws = s.draws := rfl
@[simp] theorem State.setTurns_turns (s : State) (rest : List Turn) :
    (s.setTurns rest).turns = rest := rfl

@[simp] theorem State.consume_csN (s : State) : (s.consume).csN = s.csN := rfl
@[simp] theorem State.consume_owner (s : State) : (s.consume).owner = s.owner := rfl
@[simp] theorem State.consume_stage (s : State) : (s.consume).stage = s.stage := rfl
@[simp] theorem State.consume_op (s : State) : (s.consume).op = s.op := rfl
@[simp] theorem State.consume_pend (s : State) : (s.consume).pend = s.pend := rfl
@[simp] theorem State.consume_resp (s : State) : (s.consume).resp = s.resp := rfl
@[simp] theorem State.consume_trace (s : State) : (s.consume).trace = s.trace := rfl
@[simp] theorem State.consume_answers (s : State) : (s.consume).answers = s.answers.tail := rfl
@[simp] theorem State.consume_draws (s : State) : (s.consume).draws = s.draws + 1 := rfl
@[simp] theorem State.consume_turns (s : State) : (s.consume).turns = s.turns := rfl

end Sys2Proof.Machine
end

