-- ==== Sys2Proof/Laws/Ops.lean ====
section
/-! SUPPORT. One lemma per shared operation that says once what it can do: the oracle, one whole
transaction, the response, the error path, the stage advance, the gates' decisions. -/

namespace Sys2Proof.Machine

open Sys2Proof.Safety

/-! ### The oracle -/

/-- The oracle's answer does not depend on the chip-select line. -/
@[simp] theorem answerTo_select (ask : Ask) (s : State) : answerTo ask s.select = answerTo ask s := rfl

/-- Nor does the answer after it. -/
@[simp] theorem answerTo_select_consume (ask : Ask) (s : State) :
    answerTo ask s.select.consume = answerTo ask s.consume := rfl

/-- Nor do the bytes of the answer after it. -/
@[simp] theorem answerBytes_select_consume (ask : Ask) (s : State) (n : Nat) :
    answerBytes ask s.select.consume n = answerBytes ask s.consume n := rfl

/-- A receive of `k` bytes gives `k` bytes (R112). -/
@[simp] theorem answerBytes_length (ask : Ask) (s : State) (n : Nat) :
    (answerBytes ask s n).length = n := by
  simp [answerBytes]

/-- A listed answer is the next one. -/
theorem answerTo_listed (ask : Ask) (s : State) (a : Answer) (rest : List Answer)
    (hs : s.answers = a :: rest) : answerTo ask s = a := by
  simp [answerTo, hs]

/-- The answer after the next, when both are listed. -/
theorem answerTo_consume_listed (ask : Ask) (s : State) (a b : Answer) (rest : List Answer)
    (hs : s.answers = a :: b :: rest) : answerTo ask s.consume = b := by
  simp [answerTo, State.consume, hs]

/-! ### One transaction (R113) -/

/-- The end of a cycle after one answer. -/
theorem endCycle_select_consume (h : Nat) (f : Frame) (n1 : Nat) (n2 : Option Nat) (rx : List Byte)
    (ok : Bool) (s : State) :
    endCycle h f n1 n2 rx ok s.select.consume = cycled h f n1 n2 rx ok 1 s := by
  simp [endCycle, cycled, State.deselect, State.emit, State.consume, State.select]

/-- The end of a cycle after two answers. -/
theorem endCycle_select_consume2 (h : Nat) (f : Frame) (n1 : Nat) (n2 : Option Nat) (rx : List Byte)
    (ok : Bool) (s : State) :
    endCycle h f n1 n2 rx ok s.select.consume.consume = cycled h f n1 n2 rx ok 2 s := by
  have htail : s.answers.tail.tail = s.answers.drop 2 := by
    rcases s.answers with _ | ⟨_, _ | ⟨_, _⟩⟩ <;> rfl
  simp [endCycle, cycled, State.deselect, State.emit, State.consume, State.select, htail]

/-- A command phase with a wrong count fails the transaction and skips the data phase (R113). -/
theorem xfer_cmd_mismatch (h : Nat) (f : Frame) (s : State) (hn : sentCount f.cmd s ≠ f.cmd.length) :
    xfer h f s = (.fail, cycled h f (sentCount f.cmd s) none [] false 1 s) := by
  have hn' : (answerTo (.transmit f.cmd) s).count ≠ f.cmd.length := hn
  simp [xfer, transmit, hn', endCycle_select_consume, sentCount]

/-- A frame without a data phase succeeds on a full count (R113). -/
theorem xfer_noData (h : Nat) (f : Frame) (s : State) (hd : f.data = .noData)
    (hn : sentCount f.cmd s = f.cmd.length) :
    xfer h f s = (.ok [], cycled h f f.cmd.length none [] true 1 s) := by
  have hn' : (answerTo (.transmit f.cmd) s).count = f.cmd.length := hn
  simp [xfer, transmit, hn', dataPhase, hd, endCycle_select_consume]

/-- An empty payload makes no second call (R115). -/
theorem xfer_tx_empty (h : Nat) (f : Frame) (s : State) (hd : f.data = .tx [])
    (hn : sentCount f.cmd s = f.cmd.length) :
    xfer h f s = (.ok [], cycled h f f.cmd.length none [] true 1 s) := by
  have hn' : (answerTo (.transmit f.cmd) s).count = f.cmd.length := hn
  simp [xfer, transmit, hn', dataPhase, hd, endCycle_select_consume]

/-- A payload sent with full counts (R113). -/
theorem xfer_tx_ok (h : Nat) (f : Frame) (ds : List Byte) (s : State) (hd : f.data = .tx ds)
    (hne : ds ≠ []) (hn : sentCount f.cmd s = f.cmd.length) (hm : sentCount2 ds s = ds.length) :
    xfer h f s = (.ok [], cycled h f f.cmd.length (some ds.length) [] true 2 s) := by
  have hn' : (answerTo (.transmit f.cmd) s).count = f.cmd.length := hn
  have hm' : (answerTo (.transmit ds) s.consume).count = ds.length := hm
  simp [xfer, transmit, hn', dataPhase, hd, hm', hne, endCycle_select_consume2]

/-- A payload sent with a wrong count fails the transaction (R113). -/
theorem xfer_tx_mismatch (h : Nat) (f : Frame) (ds : List Byte) (s : State) (hd : f.data = .tx ds)
    (hne : ds ≠ []) (hn : sentCount f.cmd s = f.cmd.length) (hm : sentCount2 ds s ≠ ds.length) :
    xfer h f s = (.fail, cycled h f f.cmd.length (some (sentCount2 ds s)) [] false 2 s) := by
  have hn' : (answerTo (.transmit f.cmd) s).count = f.cmd.length := hn
  have hm' : (answerTo (.transmit ds) s.consume).count ≠ ds.length := hm
  simp [xfer, transmit, hn', dataPhase, hd, hm', hne, endCycle_select_consume2, sentCount2]

/-- A receive of no bytes makes no second call (R115). -/
theorem xfer_rx_empty (h : Nat) (f : Frame) (s : State) (hd : f.data = .rx 0)
    (hn : sentCount f.cmd s = f.cmd.length) :
    xfer h f s = (.ok [], cycled h f f.cmd.length none [] true 1 s) := by
  have hn' : (answerTo (.transmit f.cmd) s).count = f.cmd.length := hn
  simp [xfer, transmit, hn', dataPhase, hd, endCycle_select_consume]

/-- A receive with full counts (R113). -/
theorem xfer_rx_ok (h : Nat) (f : Frame) (k : Nat) (s : State) (hd : f.data = .rx k) (hk : k ≠ 0)
    (hn : sentCount f.cmd s = f.cmd.length) (hm : gotCount k s = k) :
    xfer h f s =
      (.ok (gotBytes k s), cycled h f f.cmd.length (some k) (gotBytes k s) true 2 s) := by
  have hn' : (answerTo (.transmit f.cmd) s).count = f.cmd.length := hn
  have hm' : (answerTo (.receive k) s.consume).count = k := hm
  simp [xfer, transmit, receive, hn', dataPhase, hd, hm', hk, endCycle_select_consume2, gotBytes]

/-- A receive with a wrong count fails the transaction (R113). -/
theorem xfer_rx_mismatch (h : Nat) (f : Frame) (k : Nat) (s : State) (hd : f.data = .rx k) (hk : k ≠ 0)
    (hn : sentCount f.cmd s = f.cmd.length) (hm : gotCount k s ≠ k) :
    xfer h f s = (.fail, cycled h f f.cmd.length (some (gotCount k s)) [] false 2 s) := by
  have hn' : (answerTo (.transmit f.cmd) s).count = f.cmd.length := hn
  have hm' : (answerTo (.receive k) s.consume).count ≠ k := hm
  simp [xfer, transmit, receive, hn', dataPhase, hd, hm', hk, endCycle_select_consume2, gotCount]

/-- Everything a transaction can do: one cycle with one event, failed or with full counts and the
bytes the frame receives (R113, R115, R116, R117). -/
theorem xfer_cases (h : Nat) (f : Frame) (s : State) :
    ∃ n1 n2 rx ok k,
      xfer h f s = (if ok then .ok rx else .fail, cycled h f n1 n2 rx ok k s) ∧
      (ok = true ↔ countsFull f.cmd f.data n1 n2) ∧
      rx.length = (if ok then bytesReceived f else 0) ∧ (n1 ≠ f.cmd.length → n2 = none) := by
  by_cases hn : sentCount f.cmd s = f.cmd.length
  · cases hd : f.data with
    | noData =>
      refine ⟨_, _, _, true, 1, by rw [xfer_noData h f s hd hn]; rfl, ?_, ?_, ?_⟩ <;>
        simp [countsFull, bytesReceived, hd]
    | tx ds =>
      by_cases hne : ds = []
      · subst hne
        refine ⟨_, _, _, true, 1, by rw [xfer_tx_empty h f s hd hn]; rfl, ?_, ?_, ?_⟩ <;>
          simp [countsFull, bytesReceived, hd]
      · by_cases hm : sentCount2 ds s = ds.length
        · refine ⟨_, _, _, true, 2, by rw [xfer_tx_ok h f ds s hd hne hn hm]; rfl, ?_, ?_, ?_⟩ <;>
            simp [countsFull, bytesReceived, hd, hne]
        · refine ⟨_, _, _, false, 2, by rw [xfer_tx_mismatch h f ds s hd hne hn hm]; rfl, ?_, ?_, ?_⟩ <;>
            simp [countsFull, hne, hm]
    | rx m =>
      by_cases hk : m = 0
      · subst hk
        refine ⟨_, _, _, true, 1, by rw [xfer_rx_empty h f s hd hn]; rfl, ?_, ?_, ?_⟩ <;>
          simp [countsFull, bytesReceived, hd]
      · by_cases hm : gotCount m s = m
        · refine ⟨_, _, _, true, 2, by rw [xfer_rx_ok h f m s hd hk hn hm]; rfl, ?_, ?_, ?_⟩ <;>
            simp [countsFull, bytesReceived, hd, hk, gotBytes]
        · refine ⟨_, _, _, false, 2, by rw [xfer_rx_mismatch h f m s hd hk hn hm]; rfl, ?_, ?_, ?_⟩ <;>
            simp [countsFull, hk, hm]
  · refine ⟨_, _, _, false, 1, by rw [xfer_cmd_mismatch h f s hn]; rfl, ?_, ?_, ?_⟩ <;>
      simp [countsFull, hn]

/-! ### The end of an operation -/

/-- A response does exactly what R195 says. -/
theorem respond_eq (h : Nat) (result : Result) (cause : Cause) (rdata : List Byte) (s : State) :
    respond h result cause rdata s = answered h result cause rdata s := rfl

/-- The error path is the response with `ERROR` and no data (R215). -/
theorem opError_eq (h : Nat) (cause : Cause) (s : State) :
    opError h cause s = answered h .error cause [] s := rfl

/-- A stage advance goes to the next stage of the row, or answers OK (R140). -/
theorem advance_cases (h : Nat) (rdata : List Byte) (s : State) :
    (∃ st, nextStage Config.wrsrWait (currentOp s) s.stage = some st ∧
      advance h rdata s = s.goto st) ∨
    (nextStage Config.wrsrWait (currentOp s) s.stage = none ∧
      advance h rdata s = answered h .ok .noCause rdata s) := by
  unfold advance
  split
  · exact .inl ⟨_, ‹_›, rfl⟩
  · exact .inr ⟨‹_›, rfl⟩

/-! ### Gates and frame steps -/

/-- Everything a gate's poll can do (R121, R124, R126, R127). -/
theorem gatePoll_cases (pol : GatePolicy) (decideOn : Nat → Byte → State → State) (h : Nat) (s : State) :
    (∃ rx, (xfer h frameRdsr1 s).1 = .ok rx ∧
      gatePoll pol decideOn h s = decideOn h (rx.headD 0) (xfer h frameRdsr1 s).2) ∨
    ((xfer h frameRdsr1 s).1 = .fail ∧ pol = .abort ∧
      gatePoll pol decideOn h s = answered h .error .transaction [] (xfer h frameRdsr1 s).2) ∨
    ((xfer h frameRdsr1 s).1 = .fail ∧ pol = .ignore ∧
      gatePoll pol decideOn h s =
        decideOn h (drawByte (xfer h frameRdsr1 s).2).1 (drawByte (xfer h frameRdsr1 s).2).2) := by
  unfold gatePoll
  cases hx : (xfer h frameRdsr1 s).1 with
  | ok rx => exact .inl ⟨rx, rfl, by simp [hx]⟩
  | fail =>
    cases pol with
    | abort => exact .inr (.inl ⟨rfl, rfl, by simp [hx, opError_eq]⟩)
    | ignore => exact .inr (.inr ⟨rfl, rfl, by simp [hx]⟩)

/-- Everything a gate's poll can do, from the state that the poll leaves: an abort, or a decision on a byte
that is the one polled whenever the counts are right (R121, R124, R126, R127). -/
theorem gatePoll_afterPoll (decideOn : Nat → Byte → State → State) (h : Nat) (s : State) :
    ((xfer h frameRdsr1 s).1 = .fail ∧ Config.gateErrPolicy = .abort ∧
      gatePoll Config.gateErrPolicy decideOn h s =
        answered h .error .transaction [] (xfer h frameRdsr1 s).2) ∨
    (∃ b, gatePoll Config.gateErrPolicy decideOn h s = decideOn h b (afterPoll h s) ∧
      ∀ c, pollByte h s = some c → c = b) := by
  rcases gatePoll_cases Config.gateErrPolicy decideOn h s with ⟨rx, hx, he⟩ | ⟨hx, hp, he⟩ | ⟨hx, hp, he⟩
  · exact .inr ⟨rx.headD 0, by simp only [he, afterPoll, hx],
      by simp only [pollByte, hx]; rintro c ⟨⟩; rfl⟩
  · exact .inl ⟨hx, hp, he⟩
  · exact .inr ⟨(drawByte (xfer h frameRdsr1 s).2).1, by
      rw [he]; simp only [afterPoll, hx, hp]; rfl, by simp [pollByte, hx]⟩

/-- The polls of a write-gate are the same from its enable half as from the poll half after it. -/
theorem writePolls_afterEnable (h k : Nat) (s : State) (hst : s.stage = .wgWren) :
    writePolls h k (afterEnable h s) = writePolls h k s := by
  have he : pollAt h (afterEnable h s) = pollAt h s := by simp [pollAt, hst, afterEnable]
  cases k <;> simp [writePolls, he]

/-- Everything the write-gate's enable half can do (R123, R126, R127). -/
theorem wgEnable_cases (pol : GatePolicy) (h : Nat) (s : State) :
    ((xfer h frameWren s).1 = .fail ∧ pol = .abort ∧
      wgEnable pol h s = answered h .error .transaction [] (xfer h frameWren s).2) ∨
    (((∃ rx, (xfer h frameWren s).1 = .ok rx) ∨ pol = .ignore) ∧
      wgEnable pol h s = (xfer h frameWren s).2.goto .wgPoll) := by
  unfold wgEnable
  cases hx : (xfer h frameWren s).1 with
  | ok rx => exact .inr ⟨.inl ⟨rx, rfl⟩, by simp [hx]⟩
  | fail =>
    cases pol with
    | abort => exact .inl ⟨rfl, rfl, by simp [hx, opError_eq]⟩
    | ignore => exact .inr ⟨.inr rfl, by simp [hx]⟩

/-- Everything an operation's own frame step can do (R141, R211). -/
theorem frameStep_cases (h : Nat) (f : Frame) (s : State) :
    ((xfer h f s).1 = .fail ∧ frameStep h f s = answered h .error .transaction [] (xfer h f s).2) ∨
    (∃ rx, (xfer h f s).1 = .ok rx ∧ frameStep h f s = advance h rx (xfer h f s).2) := by
  unfold frameStep
  cases hx : (xfer h f s).1 with
  | ok rx => exact .inr ⟨rx, rfl, by simp [hx]⟩
  | fail => exact .inl ⟨rfl, by simp [hx, opError_eq]⟩

/-- Everything INIT's identity step can do (R182, R183). -/
theorem initIdentity_cases (h : Nat) (s : State) :
    ((xfer h frameRdid s).1 = .fail ∧
      initIdentity h s = answered h .error .transaction [] (xfer h frameRdid s).2) ∨
    (∃ rx, (xfer h frameRdid s).1 = .ok rx ∧ idMatch rx = true ∧
      initIdentity h s = answered h .ok .noCause rx (xfer h frameRdid s).2) ∨
    (∃ rx, (xfer h frameRdid s).1 = .ok rx ∧ idMatch rx = false ∧
      initIdentity h s = answered h .error .idMismatch rx (xfer h frameRdid s).2) := by
  unfold initIdentity
  cases hx : (xfer h frameRdid s).1 with
  | fail => exact .inl ⟨rfl, by simp [hx, opError_eq]⟩
  | ok rx =>
    by_cases hm : idMatch rx = true
    · exact .inr (.inl ⟨rx, rfl, hm, by simp [hx, hm, respond_eq]⟩)
    · simp only [Bool.not_eq_true] at hm
      exact .inr (.inr ⟨rx, rfl, hm, by simp [hx, hm, respond_eq]⟩)

/-! ### The arbiter -/

/-- The policy grants one of the pending hosts (R198). -/
theorem arbPick_mem (hosts : List Nat) (t : List Event) (h : Nat) (hp : arbPick hosts t = some h) :
    h ∈ hosts := by
  unfold arbPick at hp
  split at hp
  · cases hp
  · cases hp; simp
  · split at hp
    · cases hp; assumption
    · cases hp; simp

/-- The policy grants some host as soon as one is pending (R192). -/
theorem arbPick_isSome (hosts : List Nat) (t : List Event) (hne : hosts ≠ []) :
    (arbPick hosts t).isSome := by
  unfold arbPick
  split
  · exact absurd rfl hne
  · rfl
  · split <;> rfl

/-- What the arbiter hands over is a pending request. -/
theorem arbitrate_slot (s : State) (h : Nat) (q : Request) (ha : arbitrate s = some (h, q)) :
    slotGet s.pend h = some q := by
  unfold arbitrate at ha
  split at ha
  · cases ha
  · split at ha
    · cases ha
    · rename_i q' hq
      cases ha
      exact hq

/-- Everything the grant step can do (R192, R194). -/
theorem grantTo_cases (wait : Bool) (h : Nat) (q : Request) (s : State) :
    (∃ st, firstStage wait (decodeRequest q) = some st ∧
      grantTo wait h q s = ((s.latch h q).emit (.grant h q)).goto st) ∨
    (firstStage wait (decodeRequest q) = none ∧
      grantTo wait h q s = answered h .error .illegalCmd [] ((s.latch h q).emit (.grant h q))) := by
  unfold grantTo
  dsimp only
  split
  · exact .inl ⟨_, ‹_›, rfl⟩
  · exact .inr ⟨‹_›, by rw [opError_eq]⟩

end Sys2Proof.Machine
end

