-- ==== Sys2Proof/Laws/PerInstr.lean ====
section
/-! SUPPORT. One law per instruction: its encoding has the form the spec gives it, a request of the widths
of R26 or a frame of the format of its opcode (R81). -/

namespace Sys2Proof.Laws

/-- A frame has the shape of a format: the length of its command phase and its data phase (R81). -/
def hasFormat (fmt : Format) (f : Frame) : Prop :=
  match fmt with
  | .wOp => f.cmd.length = 1 ∧ f.data = .noData
  | .wOpRx1 => f.cmd.length = 1 ∧ f.data = .rx 1
  | .wOpRx3 => f.cmd.length = 1 ∧ f.data = .rx 3
  | .wOpTx2 => f.cmd.length = 1 ∧ ∃ d0 d1, f.data = .tx [d0, d1]
  | .wOpA => f.cmd.length = 4 ∧ f.data = .noData
  | .wOpARxN => f.cmd.length = 4 ∧ ∃ n, f.data = .rx n
  | .wOpATxN => f.cmd.length = 4 ∧ ∃ ds, f.data = .tx ds

/-- The encoding of a well-formed instruction is a well-formed request, or a frame whose first byte is an
opcode and whose shape is that opcode's format. -/
def EncodedForm.Statement (i : Instr) : Prop :=
  i.wf = true →
    match encode i with
    | .request q => q.wf = true
    | .frame f => ∃ op args fmt, f.cmd = op :: args ∧ formatOf op = some fmt ∧ hasFormat fmt f

namespace EncodedForm

/-- A request with a code and every other field zero fits every width. -/
theorem plain_request_wf (c : Cmd) : (requestOfCmd c).wf = true := by
  simp [Request.wf, Request.wfAt, rlenFits, payloadFits, requestOfCmd, Request.zero]

theorem identify : Statement .identify := fun _ => plain_request_wf 0x1

theorem read (a : Addr) (n : Nat) : Statement (.read a n) := by
  intro hw
  simpa [encode, requestOfCmd, Request.zero, Request.wf, Request.wfAt, payloadFits, Instr.wf,
    Instr.wfAt] using hw

theorem program (a : Addr) (ds : List Byte) : Statement (.program a ds) := by
  intro hw
  simpa [encode, requestOfCmd, Request.zero, Request.wf, Request.wfAt, rlenFits, Instr.wf,
    Instr.wfAt] using hw

theorem eraseSector (k : Sector) : Statement (.eraseSector k) := fun _ => plain_request_wf 0x4

theorem eraseChip : Statement .eraseChip := fun _ => plain_request_wf 0x5

theorem writeSr (v1 v2 : Byte) : Statement (.writeSr v1 v2) := fun _ => plain_request_wf 0x6

theorem writeEnable : Statement .writeEnable := fun _ => plain_request_wf 0x7

theorem writeDisable : Statement .writeDisable := fun _ => plain_request_wf 0x8

theorem readSr1 : Statement .readSr1 := fun _ => plain_request_wf 0x9

theorem readSr2 : Statement .readSr2 := fun _ => plain_request_wf 0xA

theorem init : Statement .init := fun _ => plain_request_wf 0xB

theorem reserved0 : Statement .reserved0 := fun _ => plain_request_wf 0x0

theorem reservedC : Statement .reservedC := fun _ => plain_request_wf 0xC

theorem reservedD : Statement .reservedD := fun _ => plain_request_wf 0xD

theorem reservedE : Statement .reservedE := fun _ => plain_request_wf 0xE

theorem reservedF : Statement .reservedF := fun _ => plain_request_wf 0xF

theorem wren : Statement .wren := fun _ => ⟨0x06, [], .wOp, rfl, rfl, rfl, rfl⟩

theorem wrdi : Statement .wrdi := fun _ => ⟨0x04, [], .wOp, rfl, rfl, rfl, rfl⟩

theorem rdsr1 : Statement .rdsr1 := fun _ => ⟨0x05, [], .wOpRx1, rfl, rfl, rfl, rfl⟩

theorem rdsr2 : Statement .rdsr2 := fun _ => ⟨0x35, [], .wOpRx1, rfl, rfl, rfl, rfl⟩

theorem wrsr (d0 d1 : Byte) : Statement (.wrsr d0 d1) :=
  fun _ => ⟨0x01, [], .wOpTx2, rfl, rfl, rfl, d0, d1, rfl⟩

theorem readData (a : Addr) (n : Nat) : Statement (.readData a n) :=
  fun _ => ⟨0x03, Machine.addrBytes a, .wOpARxN, rfl, rfl, rfl, n, rfl⟩

theorem pp (a : Addr) (ds : List Byte) : Statement (.pp a ds) :=
  fun _ => ⟨0x02, Machine.addrBytes a, .wOpATxN, rfl, rfl, rfl, ds, rfl⟩

theorem se (a : Addr) : Statement (.se a) :=
  fun _ => ⟨0x20, Machine.addrBytes a, .wOpA, rfl, rfl, rfl, rfl⟩

theorem ce : Statement .ce := fun _ => ⟨0xC7, [], .wOp, rfl, rfl, rfl, rfl⟩

theorem rsten : Statement .rsten := fun _ => ⟨0x66, [], .wOp, rfl, rfl, rfl, rfl⟩

theorem rst : Statement .rst := fun _ => ⟨0x99, [], .wOp, rfl, rfl, rfl, rfl⟩

theorem rdid : Statement .rdid := fun _ => ⟨0x9F, [], .wOpRx3, rfl, rfl, rfl, rfl⟩

end EncodedForm

end Sys2Proof.Laws
end

