-- ==== Sys2Proof/Laws/Slots.lean ====
section
/-! SUPPORT. The laws of the slot tables: what a read gives after a write, and that every operation keeps
the canonical form. -/

namespace Sys2Proof.Machine

variable {α : Type}

/-- Reading the slot just filled. -/
theorem slotGet_slotPut_same (t : Slots α) (h : Nat) (x : α) : slotGet (slotPut t h x) h = some x := by
  induction t with
  | nil => simp [slotPut, slotGet]
  | cons p rest ih =>
    obtain ⟨k, v⟩ := p
    by_cases h1 : h < k
    · simp [slotPut, slotGet, h1]
    · by_cases h2 : h = k
      · simp [slotPut, slotGet, h2]
      · simp [slotPut, slotGet, h1, h2, Ne.symm h2, ih]

/-- Filling one slot leaves every other as it was. -/
theorem slotGet_slotPut_other (t : Slots α) (h j : Nat) (x : α) (hj : j ≠ h) :
    slotGet (slotPut t h x) j = slotGet t j := by
  induction t with
  | nil => simp [slotPut, slotGet, Ne.symm hj]
  | cons p rest ih =>
    obtain ⟨k, v⟩ := p
    by_cases h1 : h < k
    · simp [slotPut, slotGet, h1, Ne.symm hj]
    · by_cases h2 : h = k
      · subst h2
        simp [slotPut, slotGet, Ne.symm hj]
      · simp only [slotPut, h1, h2, if_false, slotGet]
        rw [ih]

/-- An emptied slot reads as empty. -/
theorem slotGet_slotClear_same (t : Slots α) (h : Nat) : slotGet (slotClear t h) h = none := by
  induction t with
  | nil => rfl
  | cons p rest ih =>
    obtain ⟨k, v⟩ := p
    by_cases hk : k = h
    · simpa [slotClear, hk] using ih
    · simpa [slotClear, slotGet, hk] using ih

/-- Emptying one slot leaves every other as it was. -/
theorem slotGet_slotClear_other (t : Slots α) (h j : Nat) (hj : j ≠ h) :
    slotGet (slotClear t h) j = slotGet t j := by
  induction t with
  | nil => rfl
  | cons p rest ih =>
    obtain ⟨k, v⟩ := p
    by_cases hk : k = h
    · subst hk
      simpa [slotClear, slotGet, Ne.symm hj] using ih
    · by_cases hkj : k = j
      · subst hkj
        simp [slotClear, slotGet, hj]
      · simpa [slotClear, slotGet, hk, hkj] using ih

/-- A full slot is an entry of the table. -/
theorem mem_of_slotGet (t : Slots α) (h : Nat) (x : α) (hx : slotGet t h = some x) : (h, x) ∈ t := by
  induction t with
  | nil => simp [slotGet] at hx
  | cons p rest ih =>
    obtain ⟨k, v⟩ := p
    by_cases hk : k = h
    · simp [slotGet, hk] at hx
      simp [hk, hx]
    · simp only [slotGet, hk, if_false] at hx
      exact List.mem_cons_of_mem _ (ih hx)

/-- An entry of a filled table is the new one or an old one. -/
theorem mem_slotPut (t : Slots α) (h : Nat) (x : α) (p : Nat × α) (hp : p ∈ slotPut t h x) :
    p = (h, x) ∨ p ∈ t := by
  induction t with
  | nil => simpa [slotPut] using hp
  | cons e rest ih =>
    obtain ⟨k, v⟩ := e
    by_cases h1 : h < k
    · simpa [slotPut, h1] using hp
    · by_cases h2 : h = k
      · simp only [slotPut, h2, if_false, if_true, lt_irrefl] at hp
        rcases List.mem_cons.mp hp with rfl | hr
        · exact .inl (by rw [h2])
        · exact .inr (List.mem_cons_of_mem _ hr)
      · simp only [slotPut, h1, h2, if_false] at hp
        rcases List.mem_cons.mp hp with rfl | hr
        · exact .inr (by simp)
        · rcases ih hr with rfl | hm
          · exact .inl rfl
          · exact .inr (List.mem_cons_of_mem _ hm)

/-- An entry of a table with one slot emptied is an old one. -/
theorem mem_slotClear (t : Slots α) (h : Nat) (p : Nat × α) (hp : p ∈ slotClear t h) : p ∈ t :=
  List.mem_of_mem_filter hp

/-- Filling a slot keeps the canonical form. -/
theorem slotsWf_slotPut (t : Slots α) (h : Nat) (x : α) (ht : slotsWf t) : slotsWf (slotPut t h x) := by
  induction t with
  | nil => simp [slotsWf, slotPut]
  | cons p rest ih =>
    obtain ⟨k, v⟩ := p
    have hrest : slotsWf rest := by
      simp only [slotsWf, List.map_cons, List.pairwise_cons] at ht
      exact ht.2
    have hk : ∀ q ∈ rest, k < q.1 := by
      simp only [slotsWf, List.map_cons, List.pairwise_cons] at ht
      intro q hq
      exact ht.1 q.1 (List.mem_map_of_mem hq)
    by_cases h1 : h < k
    · simp only [slotPut, h1, if_true, slotsWf, List.map_cons, List.pairwise_cons]
      simp only [slotsWf, List.map_cons, List.pairwise_cons] at ht
      refine ⟨?_, ht⟩
      intro a ha
      rcases List.mem_cons.mp ha with rfl | hr
      · exact h1
      · exact lt_trans h1 (ht.1 a hr)
    · by_cases h2 : h = k
      · subst h2
        simpa [slotPut, slotsWf] using ht
      · simp only [slotPut, h1, h2, if_false, slotsWf, List.map_cons, List.pairwise_cons]
        refine ⟨?_, ih hrest⟩
        intro a ha
        obtain ⟨q, hq, rfl⟩ := List.mem_map.mp ha
        rcases mem_slotPut rest h x q hq with rfl | hm
        · exact lt_of_le_of_ne (not_lt.mp h1) (Ne.symm h2)
        · exact hk q hm

/-- Emptying a slot keeps the canonical form. -/
theorem slotsWf_slotClear (t : Slots α) (h : Nat) (ht : slotsWf t) : slotsWf (slotClear t h) :=
  List.Pairwise.sublist (List.Sublist.map Prod.fst List.filter_sublist) ht

end Sys2Proof.Machine
end

