-- ==== Sys2Proof/Laws/Step.lean ====
section
/-! SUPPORT. What a step can do, said once: the inversion lemmas of `exec` and of `step`, and what the
frame of each stage does. -/

namespace Sys2Proof.Machine

open Sys2Proof.Safety

/-- The state after the owner's frame `j`: the meanings of Machine/Frames.lean without their guards. -/
def runFrame (j : Instr) (h : Nat) (s : State) : State :=
  match j with
  | .wren =>
    if s.stage = .wgWren then wgEnable Config.gateErrPolicy h s else frameStep h frameWren s
  | .rdsr1 =>
    if s.stage = .frame then frameStep h frameRdsr1 s
    else if s.stage = .wgPoll then wgPoll Config.gateErrPolicy h s
    else busyPoll Config.gateErrPolicy h s
  | .rdid => if currentOp s = .init then initIdentity h s else frameStep h frameRdid s
  | j =>
    match encode j with
    | .frame f => frameStep h f s
    | .request _ => s

/-- A guarded frame that answers a next state. -/
theorem sending_next (i : Instr) (s t : State) (k : Nat → State) (hs : sending i s k = .next t) :
    ∃ h, s.owner = some h ∧ currentFrame s = some i ∧ t = k h := by
  unfold sending at hs
  split at hs
  · cases hs
  · split at hs
    · cases hs; exact ⟨_, ‹_›, ‹_›, rfl⟩
    · cases hs

/-- A guarded frame runs when its guards hold. -/
theorem sending_eq (i : Instr) (s : State) (k : Nat → State) (h : Nat) (ho : s.owner = some h)
    (hf : currentFrame s = some i) : sending i s k = .next (k h) := by
  simp [sending, ho, hf]

/-- The sequencer sends nothing at IDLE. -/
theorem currentFrame_idle (s : State) (j : Instr) (hf : currentFrame s = some j) : s.stage ≠ .idle := by
  intro hi
  simp [currentFrame, stageFrame, hi] at hf

/-- The sequencer sends frames of the operation's row only. -/
theorem currentFrame_mem (s : State) (j : Instr) (hf : currentFrame s = some j) :
    s.stage ∈ stageRow Config.wrsrWait (currentOp s) := by
  unfold currentFrame stageFrame at hf
  split at hf
  · assumption
  · cases hf

/-- What the sequencer sends in the gate stages and in INIT's first two. -/
theorem currentFrame_gate (s : State) (hm : s.stage ∈ stageRow Config.wrsrWait (currentOp s)) :
    (s.stage = .preBg → currentFrame s = some .rdsr1) ∧
    (s.stage = .postBg → currentFrame s = some .rdsr1) ∧
    (s.stage = .wgPoll → currentFrame s = some .rdsr1) ∧
    (s.stage = .wgWren → currentFrame s = some .wren) ∧
    (s.stage = .rsten → currentFrame s = some .rsten) ∧
    (s.stage = .rst → currentFrame s = some .rst) ∧
    (s.stage = .frame → currentFrame s = ownFrame (currentOp s)) := by
  refine ⟨?_, ?_, ?_, ?_, ?_, ?_, ?_⟩ <;>
    · intro hst
      rw [hst] at hm
      simp [currentFrame, stageFrame, hst, hm]

/-- A wire frame, as opposed to a host request. -/
def isWire (i : Instr) : Bool :=
  match encode i with
  | .frame _ => true
  | .request _ => false

/-- The meaning of a wire frame, when its guards hold. -/
theorem exec_wire (j : Instr) (s : State) (h : Nat) (ho : s.owner = some h)
    (hf : currentFrame s = some j) (hw : isWire j = true) : exec j s = .next (runFrame j h s) := by
  cases j <;> first
    | (simp [isWire, encode] at hw; done)
    | (exact sending_eq _ s _ h ho hf)

/-- The sequencer sends wire frames only. -/
theorem currentFrame_wire (s : State) (j : Instr) (hf : currentFrame s = some j) : isWire j = true := by
  unfold currentFrame stageFrame at hf
  split at hf
  · split at hf
    · cases hf
    · cases hf; rfl
    · cases hf; rfl
    · cases hf; rfl
    · cases hc : currentOp s <;> rw [hc] at hf <;> cases hf <;> rfl
    · cases hf; rfl
    · cases hf; rfl
    · cases hf; rfl
  · cases hf

/-- The meaning of a wire frame that answers a next state. -/
theorem exec_wire_next (j : Instr) (s t : State) (hw : isWire j = true) (he : exec j s = .next t) :
    ∃ h, s.owner = some h ∧ currentFrame s = some j ∧ t = runFrame j h s := by
  cases j <;> first
    | (simp [isWire, encode] at hw; done)
    | (exact sending_next _ s t _ he)

/-- A grant that answers a next state. -/
theorem grant_next (i : Instr) (s t : State) (hg : grant i s = .next t) :
    ∃ h q, arbitrate s = some (h, q) ∧ decodeRequest q = i ∧ t = grantTo Config.wrsrWait h q s := by
  unfold grant at hg
  split at hg
  · cases hg
  · split at hg
    · cases hg; exact ⟨_, _, ‹_›, ‹_›, rfl⟩
    · cases hg

/-- A host operation's step that answers a next state. -/
theorem operation_next (i : Instr) (s t : State) (run : Stage → Out) (ho : operation i s run = .next t) :
    (s.stage = .idle ∧
      ∃ h q, arbitrate s = some (h, q) ∧ decodeRequest q = i ∧ t = grantTo Config.wrsrWait h q s) ∨
    (s.stage ≠ .idle ∧ currentOp s = i ∧ run s.stage = .next t) := by
  unfold operation at ho
  split at ho
  · exact .inl ⟨‹_›, grant_next i s t ho⟩
  · split at ho
    · exact .inr ⟨‹_›, ‹_›, ho⟩
    · cases ho

/-- A host operation's step is the grant at IDLE and a wire frame's step after it. -/
theorem exec_host (i : Instr) (s : State) (hw : isWire i = false) :
    ∃ run, exec i s = operation i s run ∧
      ∀ st t, run st = .next t → ∃ j, isWire j = true ∧ exec j s = .next t := by
  cases i <;> first
    | (simp [isWire, encode] at hw; done)
    | (refine ⟨_, by dsimp only [exec, execIdentify, execRead, execProgram, execEraseSector,
           execEraseChip, execWriteSr, execWriteEnable, execWriteDisable, execReadSr1, execReadSr2,
           execInit, execReserved0, execReservedC, execReservedD, execReservedE, execReservedF], ?_⟩
       intro st t hr
       cases st <;> first
         | (cases hr)
         | (exact ⟨.rdsr1, rfl, hr⟩)
         | (exact ⟨.wren, rfl, hr⟩)
         | (exact ⟨.rdid, rfl, hr⟩)
         | (exact ⟨.wrdi, rfl, hr⟩)
         | (exact ⟨.rdsr2, rfl, hr⟩)
         | (exact ⟨.ce, rfl, hr⟩)
         | (exact ⟨.rsten, rfl, hr⟩)
         | (exact ⟨.rst, rfl, hr⟩)
         | (exact ⟨.readData _ _, rfl, hr⟩)
         | (exact ⟨.pp _ _, rfl, hr⟩)
         | (exact ⟨.se _, rfl, hr⟩)
         | (exact ⟨.wrsr _ _, rfl, hr⟩)
         | (dsimp only at hr
            split at hr
            · exact ⟨.rdsr1, rfl, hr⟩
            · cases hr))

/-- Everything `exec` can do: a grant at IDLE, else the frame the sequencer sends for the owner. -/
theorem exec_next (i : Instr) (s t : State) (he : exec i s = .next t) :
    (s.stage = .idle ∧
      ∃ h q, arbitrate s = some (h, q) ∧ decodeRequest q = i ∧ t = grantTo Config.wrsrWait h q s) ∨
    (s.stage ≠ .idle ∧
      ∃ h j, s.owner = some h ∧ currentFrame s = some j ∧ t = runFrame j h s) := by
  cases hw : isWire i with
  | true =>
    obtain ⟨h, ho, hf, ht⟩ := exec_wire_next i s t hw he
    exact .inr ⟨currentFrame_idle s i hf, h, i, ho, hf, ht⟩
  | false =>
    obtain ⟨run, hrun, hwire⟩ := exec_host i s hw
    rcases operation_next i s t run (hrun ▸ he) with hg | ⟨hst, -, hr⟩
    · exact .inl hg
    · obtain ⟨j, hj, hej⟩ := hwire _ _ hr
      obtain ⟨h, ho, hf, ht⟩ := exec_wire_next j s t hj hej
      exact .inr ⟨hst, h, j, ho, hf, ht⟩

/-- Everything an engine step can do: wait, grant, or run the frame the sequencer sends. -/
theorem engineStep_next (s t : State) (he : engineStep s = .next t) :
    (s.stage = .idle ∧ arbitrate s = none ∧ t = s) ∨
    (s.stage = .idle ∧ ∃ h q, arbitrate s = some (h, q) ∧ t = grantTo Config.wrsrWait h q s) ∨
    (s.stage ≠ .idle ∧
      ∃ h j, s.owner = some h ∧ currentFrame s = some j ∧ t = runFrame j h s) := by
  unfold engineStep at he
  split at he
  · rcases exec_next _ s t he with ⟨hi, h, q, ha, -, ht⟩ | hf
    · exact .inr (.inl ⟨hi, h, q, ha, ht⟩)
    · exact .inr (.inr hf)
  · rename_i hn
    split at he
    · rename_i hi
      cases he
      refine .inl ⟨hi, ?_, rfl⟩
      cases ha : arbitrate s with
      | none => rfl
      | some p => simp [fetch, hi, ha] at hn
    · cases he

/-- Everything a step can do: one turn of one agent, in the state with the agenda read up to it. -/
theorem step_next (s t : State) (hs : step s = .next t) :
    (∃ rest, (s.turns = [] ∧ rest = [] ∨ s.turns = .engine :: rest) ∧
      engineStep (s.setTurns rest) = .next t) ∨
    (∃ h q rest, s.turns = .post h q :: rest ∧
      t = post Config.nHosts Config.lenW h q (s.setTurns rest)) ∨
    (∃ h rest, s.turns = .take h :: rest ∧ t = take h (s.setTurns rest)) ∨
    (∃ rest, s.turns = .reset :: rest ∧ t = blockReset (s.setTurns rest)) := by
  unfold step at hs
  split at hs
  · rename_i hn
    refine .inl ⟨[], .inl ⟨hn, rfl⟩, ?_⟩
    have hself : s.setTurns [] = s := by
      cases s; simp only [State.setTurns] at *; rw [hn]
    rw [hself]
    exact hs
  · rename_i u rest hn
    cases u with
    | engine => exact .inl ⟨rest, .inr hn, hs⟩
    | post h q => cases hs; exact .inr (.inl ⟨h, q, rest, hn, rfl⟩)
    | take h => cases hs; exact .inr (.inr (.inl ⟨h, rest, hn, rfl⟩))
    | reset => cases hs; exact .inr (.inr (.inr ⟨rest, hn, rfl⟩))

/-- What every move of every agent keeps, every step keeps. -/
theorem step_keeps (P : State → Prop) (s t : State)
    (hturns : ∀ s rest, P s → P (s.setTurns rest))
    (hgrant : ∀ s h q, P s → s.stage = .idle → arbitrate s = some (h, q) →
      P (grantTo Config.wrsrWait h q s))
    (hframe : ∀ s h j, P s → s.owner = some h → currentFrame s = some j → P (runFrame j h s))
    (hpost : ∀ s h q, P s → P (post Config.nHosts Config.lenW h q s))
    (htake : ∀ s h, P s → P (take h s))
    (hreset : ∀ s, P s → P (blockReset s))
    (hp : P s) (hs : step s = .next t) : P t := by
  rcases step_next s t hs with ⟨rest, -, he⟩ | ⟨h, q, rest, -, rfl⟩ | ⟨h, rest, -, rfl⟩ | ⟨rest, -, rfl⟩
  · rcases engineStep_next _ t he with ⟨-, -, rfl⟩ | ⟨hi, h, q, ha, rfl⟩ | ⟨-, h, j, ho, hf, rfl⟩
    · exact hturns _ _ hp
    · exact hgrant _ _ _ (hturns _ _ hp) hi ha
    · exact hframe _ _ _ (hturns _ _ hp) ho hf
  · exact hpost _ _ _ (hturns _ _ hp)
  · exact htake _ _ (hturns _ _ hp)
  · exact hreset _ (hturns _ _ hp)

/-- An operation's own frame, INIT's apart, is one frame step. -/
theorem runFrame_own (s : State) (j : Instr) (h : Nat) (hst : s.stage = .frame)
    (hi : currentOp s ≠ .init) (hw : isWire j = true) :
    ∃ f, encode j = .frame f ∧ runFrame j h s = frameStep h f s := by
  cases j <;> first
    | (simp [isWire, encode] at hw; done)
    | (refine ⟨_, rfl, ?_⟩; simp [runFrame, encode, hst, hi])

/-- What the frame of each stage does (R24, R140): a gate step in the gate stages, else the operation's
own frame step, INIT's identity step among them. -/
theorem runFrame_stage (s : State) (j : Instr) (h : Nat) (hf : currentFrame s = some j) :
    ((s.stage = .preBg ∨ s.stage = .postBg) ∧ runFrame j h s = busyPoll Config.gateErrPolicy h s) ∨
    (s.stage = .wgPoll ∧ runFrame j h s = wgPoll Config.gateErrPolicy h s) ∨
    (s.stage = .wgWren ∧ runFrame j h s = wgEnable Config.gateErrPolicy h s) ∨
    (s.stage = .rsten ∧ runFrame j h s = frameStep h frameRsten s) ∨
    (s.stage = .rst ∧ runFrame j h s = frameStep h frameRst s) ∨
    (s.stage = .frame ∧ currentOp s = .init ∧ runFrame j h s = initIdentity h s) ∨
    (s.stage = .frame ∧ currentOp s ≠ .init ∧ ownFrame (currentOp s) = some j ∧
      ∃ f, encode j = .frame f ∧ runFrame j h s = frameStep h f s) := by
  have hm := currentFrame_mem s j hf
  obtain ⟨g1, g2, g3, g4, g5, g6, g7⟩ := currentFrame_gate s hm
  cases hst : s.stage with
  | idle => exact absurd hst (currentFrame_idle s j hf)
  | preBg =>
    have := Option.some.inj ((g1 hst).symm.trans hf)
    subst this
    exact .inl ⟨.inl rfl, by simp [runFrame, hst]⟩
  | postBg =>
    have := Option.some.inj ((g2 hst).symm.trans hf)
    subst this
    exact .inl ⟨.inr rfl, by simp [runFrame, hst]⟩
  | wgPoll =>
    have := Option.some.inj ((g3 hst).symm.trans hf)
    subst this
    exact .inr (.inl ⟨rfl, by simp [runFrame, hst]⟩)
  | wgWren =>
    have := Option.some.inj ((g4 hst).symm.trans hf)
    subst this
    exact .inr (.inr (.inl ⟨rfl, by simp [runFrame, hst]⟩))
  | rsten =>
    have := Option.some.inj ((g5 hst).symm.trans hf)
    subst this
    exact .inr (.inr (.inr (.inl ⟨rfl, rfl⟩)))
  | rst =>
    have := Option.some.inj ((g6 hst).symm.trans hf)
    subst this
    exact .inr (.inr (.inr (.inr (.inl ⟨rfl, rfl⟩))))
  | frame =>
    have ho := (g7 hst).symm.trans hf
    refine .inr (.inr (.inr (.inr (.inr ?_))))
    by_cases hi : currentOp s = .init
    · refine .inl ⟨rfl, hi, ?_⟩
      rw [hi] at ho
      have := Option.some.inj ho
      subst this
      simp [runFrame, hi]
    · exact .inr ⟨rfl, hi, ho, runFrame_own s j h hst hi (currentFrame_wire s j hf)⟩

/-! ### What a frame can leave -/

/-- IDLE is in no operation's row (R140). -/
theorem idle_notMem_stageRow (wait : Bool) (i : Instr) : Stage.idle ∉ stageRow wait i := by
  cases i <;> cases wait <;> simp [stageRow]

/-- The entry after a stage is in the row. -/
theorem entryAfter_mem (st st' : Stage) (row : List Stage) (he : entryAfter st row = some st') :
    st' ∈ row := by
  induction row with
  | nil => simp [entryAfter] at he
  | cons x rest ih =>
    unfold entryAfter at he
    split at he
    · exact List.mem_cons_of_mem _ (List.mem_of_mem_head? he)
    · exact List.mem_cons_of_mem _ (ih he)

/-- What a frame step leaves of the state `u` its transaction left, in any stage: the same stage again,
another stage of the row, or the owner answered. -/
def leaves (h : Nat) (u t : State) : Prop :=
  t = u ∨
  (∃ st, st ∈ stageRow Config.wrsrWait (currentOp u) ∧ st ≠ .idle ∧ t = u.goto st) ∨
  (∃ r c d, responseOk ⟨r, c, d⟩ ∧ t = answered h r c d u)

/-- The error path answers as the block writes errors. -/
theorem leaves_error (h : Nat) (c : Cause) (u : State) (hc : c ≠ .noCause) :
    leaves h u (answered h .error c [] u) :=
  .inr (.inr ⟨_, _, _, by simp [responseOk, hc], rfl⟩)

/-- A stage advance leaves another stage of the row or the owner answered OK. -/
theorem leaves_advance (h : Nat) (rdata : List Byte) (u : State) :
    leaves h u (advance h rdata u) := by
  rcases advance_cases h rdata u with ⟨st, hn, he⟩ | ⟨-, he⟩
  · have hm := entryAfter_mem _ _ _ hn
    refine .inr (.inl ⟨st, hm, ?_, he⟩)
    rintro rfl
    exact idle_notMem_stageRow _ _ hm
  · exact .inr (.inr ⟨_, _, _, by simp [responseOk], he⟩)

/-- The state a gate decides in: after the cycle, or after the free byte drawn for a failed poll. -/
def afterCycle (u s2 : State) : Prop := s2 = u ∨ s2 = u.consume

/-- A gate's poll leaves what its decision leaves (R121, R124). -/
theorem gatePoll_leaves (pol : GatePolicy) (decideOn : Nat → Byte → State → State) (h : Nat) (s : State)
    (hd : ∀ b u, u = (xfer h frameRdsr1 s).2 ∨ u = (xfer h frameRdsr1 s).2.consume →
      leaves h u (decideOn h b u)) :
    ∃ u, afterCycle (xfer h frameRdsr1 s).2 u ∧ leaves h u (gatePoll pol decideOn h s) := by
  rcases gatePoll_cases pol decideOn h s with ⟨rx, -, he⟩ | ⟨-, -, he⟩ | ⟨-, -, he⟩ <;> rw [he]
  · exact ⟨_, .inl rfl, hd _ _ (.inl rfl)⟩
  · exact ⟨_, .inl rfl, leaves_error _ _ _ (by simp)⟩
  · exact ⟨_, .inr rfl, hd _ _ (.inr rfl)⟩

/-- A frame step leaves another stage of the row or the owner answered (R141). -/
theorem frameStep_leaves (h : Nat) (f : Frame) (s : State) :
    leaves h (xfer h f s).2 (frameStep h f s) := by
  rcases frameStep_cases h f s with ⟨-, he⟩ | ⟨rx, -, he⟩ <;> rw [he]
  · exact leaves_error _ _ _ (by simp)
  · exact leaves_advance _ _ _

/-- A transaction changes neither the latched request nor the stage. -/
theorem xfer_keeps (h : Nat) (f : Frame) (s : State) :
    (xfer h f s).2.op = s.op ∧ (xfer h f s).2.stage = s.stage ∧ (xfer h f s).2.owner = s.owner := by
  obtain ⟨n1, n2, rx, ok, k, he, -⟩ := xfer_cases h f s
  rw [he]
  exact ⟨rfl, rfl, rfl⟩

/-- The write-gate's own row has its enable half wherever it has its poll half (R140). -/
theorem wgWren_mem (wait : Bool) (i : Instr) (hm : Stage.wgPoll ∈ stageRow wait i) :
    Stage.wgWren ∈ stageRow wait i := by
  cases i <;> cases wait <;> simp_all [stageRow]

/-- The write-gate's own row has its poll half wherever it has its enable half (R140). -/
theorem wgPoll_mem (wait : Bool) (i : Instr) (hm : Stage.wgWren ∈ stageRow wait i) :
    Stage.wgPoll ∈ stageRow wait i := by
  cases i <;> cases wait <;> simp_all [stageRow]

/-- Everything the frame of a stage can leave: one transaction with the frame's bytes, perhaps one free
byte drawn after it, and then the same stage, another stage of the row, or the owner answered. -/
theorem runFrame_leaves (s : State) (j : Instr) (h : Nat) (hf : currentFrame s = some j) :
    ∃ f u, encode j = .frame f ∧ afterCycle (xfer h f s).2 u ∧ leaves h u (runFrame j h s) := by
  have hm := currentFrame_mem s j hf
  obtain ⟨g1, g2, g3, g4, g5, g6, g7⟩ := currentFrame_gate s hm
  have frame_of : ∀ k, currentFrame s = some k → k = j := fun k hk => Option.some.inj (hk.symm.trans hf)
  rcases runFrame_stage s j h hf with ⟨hst, he⟩ | ⟨hst, he⟩ | ⟨hst, he⟩ | ⟨hst, he⟩ | ⟨hst, he⟩ |
    ⟨hst, hi, he⟩ | ⟨hst, hi, ho, f, hfr, he⟩
  · have hj : Instr.rdsr1 = j := hst.elim (fun e => frame_of _ (g1 e)) (fun e => frame_of _ (g2 e))
    subst hj
    obtain ⟨u, hu, hl⟩ := gatePoll_leaves Config.gateErrPolicy busyDecide h s (by
      intro b u _
      unfold busyDecide
      split
      · exact .inl rfl
      · exact leaves_advance _ _ _)
    exact ⟨_, u, rfl, hu, by rw [he]; exact hl⟩
  · have hj : Instr.rdsr1 = j := frame_of _ (g3 hst)
    subst hj
    obtain ⟨u, hu, hl⟩ := gatePoll_leaves Config.gateErrPolicy wgDecide h s (by
      intro b u hu
      unfold wgDecide
      split
      · exact leaves_advance _ _ _
      · refine .inr (.inl ⟨.wgWren, ?_, by simp, rfl⟩)
        have hop : currentOp u = currentOp s := by
          obtain ⟨k1, -, -⟩ := xfer_keeps h frameRdsr1 s
          rcases hu with rfl | rfl <;> simp [currentOp, k1]
        rw [hop]
        exact wgWren_mem _ _ (hst ▸ hm))
    exact ⟨_, u, rfl, hu, by rw [he]; exact hl⟩
  · have hj : Instr.wren = j := frame_of _ (g4 hst)
    subst hj
    refine ⟨_, _, rfl, .inl rfl, ?_⟩
    rw [he]
    rcases wgEnable_cases Config.gateErrPolicy h s with ⟨-, -, h2⟩ | ⟨-, h2⟩ <;> rw [h2]
    · exact leaves_error _ _ _ (by simp)
    · refine .inr (.inl ⟨.wgPoll, ?_, by simp, rfl⟩)
      obtain ⟨k1, -, -⟩ := xfer_keeps h frameWren s
      rw [currentOp, k1]
      exact wgPoll_mem _ _ (hst ▸ hm)
  · have hj : Instr.rsten = j := frame_of _ (g5 hst)
    subst hj
    exact ⟨_, _, rfl, .inl rfl, by rw [he]; exact frameStep_leaves _ _ _⟩
  · have hj : Instr.rst = j := frame_of _ (g6 hst)
    subst hj
    exact ⟨_, _, rfl, .inl rfl, by rw [he]; exact frameStep_leaves _ _ _⟩
  · have hj : Instr.rdid = j := frame_of _ ((g7 hst).trans (by rw [hi]; rfl))
    subst hj
    refine ⟨_, _, rfl, .inl rfl, ?_⟩
    rw [he]
    rcases initIdentity_cases h s with ⟨-, h2⟩ | ⟨rx, -, -, h2⟩ | ⟨rx, hx, -, h2⟩ <;> rw [h2]
    · exact leaves_error _ _ _ (by simp)
    · exact .inr (.inr ⟨_, _, _, by simp [responseOk], rfl⟩)
    · refine .inr (.inr ⟨_, _, _, ?_, rfl⟩)
      obtain ⟨n1, n2, rx', ok, k, hxe, -, hlen, -⟩ := xfer_cases h frameRdid s
      rw [hxe] at hx
      cases ok with
      | false => simp at hx
      | true =>
        simp only [if_true, XferResult.ok.injEq] at hx hlen
        subst hx
        simp [responseOk, hlen, bytesReceived, frameRdid]
  · exact ⟨f, _, hfr, .inl rfl, by rw [he]; exact frameStep_leaves _ _ _⟩

/-! ### Bounded runs -/

/-- A run of `a + b` steps is the run of `b` steps from where the first `a` end. -/
theorem steps_add (a b : Nat) (s t : State) (h : steps a s = .next t) :
    steps (a + b) s = steps b t := by
  induction a generalizing s with
  | zero => cases h; simp
  | succ n ih =>
    rw [show n + 1 + b = (n + b) + 1 by omega]
    simp only [steps] at h ⊢
    cases hs : step s with
    | next u => rw [hs] at h; exact ih u h
    | fault r => rw [hs] at h; cases h
    | refused r => rw [hs] at h; cases h

/-- A run of one step is that step. -/
theorem steps_one (s t : State) (h : step s = .next t) : steps 1 s = .next t := by
  simp only [steps, h]

end Sys2Proof.Machine
end

