-- ==== Sys2Proof/Laws/Trace.lean ====
section
/-! SUPPORT. The laws of the trace's properties: what they say of a trace with one more event. -/

namespace Sys2Proof.Safety

open Sys2Proof.Machine

/-- The ownership along two traces in a row. -/
theorem busOwner_append (o : Option Nat) (t u : List Event) :
    busOwner o (t ++ u) = (busOwner o t).bind fun o' => busOwner o' u := by
  induction t generalizing o with
  | nil => rfl
  | cons e rest ih =>
    cases e <;> simp only [List.cons_append, busOwner] <;> (try split) <;> first
      | exact ih _
      | rfl

/-- One more event is right exactly when it is right after the last one. -/
theorem chained_append (right : Option Event → Event → Prop) (prev : Option Event) (t : List Event)
    (e : Event) :
    chained right prev (t ++ [e]) ↔ chained right prev t ∧ right (t.getLast?.or prev) e := by
  induction t generalizing prev with
  | nil => simp [chained]
  | cons x rest ih =>
    simp only [List.cons_append, chained, ih, and_assoc]
    have hl : rest.getLast?.or (some x) = (x :: rest).getLast?.or prev := by
      cases rest <;> simp [List.getLast?_cons]
    rw [hl]

end Sys2Proof.Safety
end

