-- ==== Sys2Proof/Machine/Notation.lean ====
section
/-! DEFINITION. The written notation of requests and frames (spec 30_encoding.md R101, decision D33), as
lists of characters. A request with a reserved code has no notation in R101. -/

namespace Sys2Proof.Machine

/-- One hexadecimal digit, capital as the spec writes them. -/
def hexDigit (n : Nat) : Char :=
  if n < 10 then Char.ofNat (48 + n) else Char.ofNat (55 + n)

/-- The last `digits` hexadecimal digits of `n`. -/
def hexDigits (digits n : Nat) : List Char :=
  match digits with
  | 0 => []
  | d + 1 => hexDigits d (n / 16) ++ [hexDigit (n % 16)]

/-- Decimal digits, `fuel` of them at most. -/
def decDigits (fuel n : Nat) : List Char :=
  match fuel with
  | 0 => []
  | k + 1 => (if n < 10 then [] else decDigits k (n / 10)) ++ [Char.ofNat (48 + n % 10)]

/-- A natural number in decimal. -/
def decimal (n : Nat) : List Char := decDigits (n + 1) n

/-- A byte as two hexadecimal digits. -/
def byteText (b : Byte) : List Char := hexDigits 2 b.toNat

/-- Bytes in hexadecimal with a space between. -/
def bytesText (bs : List Byte) : List Char :=
  match bs with
  | [] => []
  | [b] => byteText b
  | b :: b' :: rest => byteText b ++ ' ' :: bytesText (b' :: rest)

/-- `0x` before a number. -/
def zeroX : List Char := ['0', 'x']

/-- The line of an operation (R101); none for what has no line. -/
def operationText (i : Instr) : Option (List Char) :=
  match i with
  | .identify => some "IDENTIFY".toList
  | .read a n =>
    some ("READ addr=".toList ++ zeroX ++ hexDigits 6 a.toNat ++ ", len=".toList ++ decimal n)
  | .program a ds =>
    some ("PROGRAM addr=".toList ++ zeroX ++ hexDigits 6 a.toNat ++ ", data=[".toList ++ bytesText ds
      ++ [']'])
  | .eraseSector k => some ("ERASE_SECTOR sector=".toList ++ decimal k.toNat)
  | .eraseChip => some "ERASE_CHIP".toList
  | .writeSr v1 v2 =>
    some ("WRITE_SR sr1=".toList ++ zeroX ++ byteText v1 ++ ", sr2=".toList ++ zeroX ++ byteText v2)
  | .writeEnable => some "WRITE_ENABLE".toList
  | .writeDisable => some "WRITE_DISABLE".toList
  | .readSr1 => some "READ_SR1".toList
  | .readSr2 => some "READ_SR2".toList
  | .init => some "INIT".toList
  | .reserved0 => none
  | .reservedC => none
  | .reservedD => none
  | .reservedE => none
  | .reservedF => none
  | .wren => none
  | .wrdi => none
  | .rdsr1 => none
  | .rdsr2 => none
  | .wrsr _ _ => none
  | .readData _ _ => none
  | .pp _ _ => none
  | .se _ => none
  | .ce => none
  | .rsten => none
  | .rst => none
  | .rdid => none

/-- A program line: the operation with the host that posts it before it (R101). -/
def lineText (h : Nat) (i : Instr) : Option (List Char) :=
  (operationText i).map fun t => 'h' :: (decimal h ++ ':' :: ' ' :: t)

/-- The sent bytes of a frame between braces (R101): characters 123 and 125. -/
def frameText (f : Frame) : List Char :=
  let sent := match f.data with
    | .noData => f.cmd
    | .tx ds => f.cmd ++ ds
    | .rx _ => f.cmd
  Char.ofNat 123 :: (bytesText sent ++ [Char.ofNat 125])

end Sys2Proof.Machine
end

