-- ==== Sys2Proof/Tests/Slice0.lean ====
section
/-! SUPPORT. Tests of the model against the worked vectors of spec 95_test_vectors.md and words written out
from the encodings of 30_encoding.md, the smoke tests of WellFormed, and one witness for every statement
that has hypotheses. -/

namespace Sys2Proof.Tests

open Sys2Proof Sys2Proof.Machine Sys2Proof.Safety

/-! ### Helpers -/

/-- Right after reset, with one request of host 0 posted and these answers of the oracle to come. -/
def posted (q : Request) (answers : List Answer) : State :=
  { State.reset with pend := [(0, q)], answers := answers }

/-- Host 0 served with request `q`, at a stage, with these answers of the oracle to come. -/
def serving (q : Request) (st : Stage) (answers : List Answer) : State :=
  { State.reset with owner := some 0, stage := st, op := q, pend := [(0, q)], answers := answers }

/-- The events a next state has after the `Reset`. -/
def eventsOf (o : Out) : List Event :=
  match o with
  | .next t => t.trace.drop 1
  | .fault _ => []
  | .refused _ => []

/-- The stage of a next state. -/
def stageOf (o : Out) : Option Stage :=
  match o with
  | .next t => some t.stage
  | .fault _ => none
  | .refused _ => none

/-- The untaken response of host 0 in a next state. -/
def responseOf (o : Out) : Option Response :=
  match o with
  | .next t => slotGet t.resp 0
  | .fault _ => none
  | .refused _ => none

/-- A request with a code and an address. -/
def withAddr (c : Cmd) (a : Addr) : Request := { requestOfCmd c with addr := a }

/-! ### WellFormed: an ill-formed term for each check, refused -/

theorem test_rlen_too_long : rlenFits 2 4 = false := by decide

theorem test_rlen_longest : rlenFits 2 3 = true := by decide

theorem test_payload_too_long : payloadFits 2 [0, 0, 0, 0] = false := by decide

theorem test_payload_longest : payloadFits 2 [0, 0, 0] = true := by decide

theorem test_sector_address_unaligned : sectorAligned 0x000FFF = false := by decide

theorem test_request_rlen_refused : { requestOfCmd 0x2 with rlen := 8 }.wfAt 3 = false := by decide

theorem test_request_payload_refused :
    { requestOfCmd 0x3 with wdata := [1, 2] }.wfAt 1 = false := by decide

theorem test_read_refused : (Instr.read 0x000000 2).wfAt 1 = false := by decide

theorem test_pp_refused : (Instr.pp 0x000000 [1, 2]).wfAt 1 = false := by decide

theorem test_se_refused : (Instr.se 0x001001).wfAt 1 = false := by decide

/-! ### Decoding: bytes written out from R84 to R95, codes from R97 -/

theorem test_decode_wren : decodeCycle [0x06] = .ok .wren := by decide

theorem test_decode_wrdi : decodeCycle [0x04] = .ok .wrdi := by decide

theorem test_decode_rdsr1 : decodeCycle [0x05, 0x00] = .ok .rdsr1 := by decide

theorem test_decode_rdsr2 : decodeCycle [0x35, 0x00] = .ok .rdsr2 := by decide

theorem test_decode_wrsr : decodeCycle [0x01, 0xFC, 0xFF] = .ok (.wrsr 0xFC 0xFF) := by decide

theorem test_decode_read_data :
    decodeCycle [0x03, 0x01, 0x02, 0x03, 0x00] = .ok (.readData 0x010203 1) := by decide

theorem test_decode_pp : decodeCycle [0x02, 0x00, 0x00, 0xFF, 0x5A] = .ok (.pp 0x0000FF [0x5A]) := by
  decide

theorem test_decode_se : decodeCycle [0x20, 0x7F, 0xF0, 0x00] = .ok (.se 0x7FF000) := by decide

theorem test_decode_ce : decodeCycle [0xC7] = .ok .ce := by decide

theorem test_decode_rsten : decodeCycle [0x66] = .ok .rsten := by decide

theorem test_decode_rst : decodeCycle [0x99] = .ok .rst := by decide

theorem test_decode_rdid : decodeCycle [0x9F, 0xEF, 0x40, 0x17] = .ok .rdid := by decide

theorem test_decode_requests :
    (List.range 16).map (fun c => decodeRequest (requestOfCmd (BitVec.ofNat 4 c))) =
      [.reserved0, .identify, .read 0 0, .program 0 [], .eraseSector 0, .eraseChip, .writeSr 0 0,
        .writeEnable, .writeDisable, .readSr1, .readSr2, .init, .reservedC, .reservedD, .reservedE,
        .reservedF] := by decide

theorem test_decode_read_fields :
    decodeRequest { requestOfCmd 0x2 with addr := 0x123456, rlen := 2, sector := 7 } =
      .read 0x123456 2 := by decide

theorem test_decode_unknown_opcode : decodeCycle [0xAB] = .error (.unknownOpcode 0xAB) := by decide

theorem test_decode_wrong_shape : decodeCycle [0x06, 0x00] = .error (.wrongShape 0x06) := by decide

theorem test_decode_short_address : decodeCycle [0x20, 0x00, 0x10] = .error (.wrongShape 0x20) := by
  decide

theorem test_decode_empty_cycle : decodeCycle [] = .error .emptyCycle := by decide

/-- R100: the twelve opcodes of R84 to R95, and no other byte, are known. -/
theorem test_known_opcodes :
    (List.range 256).filter (fun n => (formatOf (BitVec.ofNat 8 n)).isSome) =
      [0x01, 0x02, 0x03, 0x04, 0x05, 0x06, 0x20, 0x35, 0x66, 0x99, 0x9F, 0xC7] := by decide

theorem test_table_word_host : decodeTableWord 8 0x5 = some .eraseChip := by decide

theorem test_table_word_wire : decodeTableWord 8 0x20 = some (.se 0) := by decide

/-- The next step after placing a table word runs it: the grant of a request, the frame of a cycle. -/
theorem test_placed_word_runs :
    step (State.reset.withFetchWord 8 0x9) = exec .readSr1 (State.reset.withFetchWord 8 0x9) ∧
    step (State.reset.withFetchWord 8 0x9F) = exec .rdid (State.reset.withFetchWord 8 0x9F) ∧
    (∃ t, step (State.reset.withFetchWord 8 0x20) = .next t) ∧
    (∃ t, step (State.reset.withFetchWord 8 0x66) = .next t) :=
  ⟨rfl, rfl, ⟨_, rfl⟩, ⟨_, rfl⟩⟩

/-! ### V9: sector addresses -/

theorem test_v9_sector_frames :
    [0x0000, 0x0001, 0x00FF, 0x0800, 0x0FFF, 0x1000, 0x1234, 0xFFFF].map
        (fun k => (frameSe (sectorAddr k)).cmd) =
      [[0x20, 0x00, 0x00, 0x00], [0x20, 0x00, 0x10, 0x00], [0x20, 0x0F, 0xF0, 0x00],
        [0x20, 0x80, 0x00, 0x00], [0x20, 0xFF, 0xF0, 0x00], [0x20, 0x00, 0x00, 0x00],
        [0x20, 0x23, 0x40, 0x00], [0x20, 0xFF, 0xF0, 0x00]] := by decide

/-! ### V12: one transaction -/

/-- What one transaction of host 0 in FRAME gives and emits. -/
def xferOf (f : Frame) (answers : List Answer) : XferResult × List Event :=
  let r := xfer 0 f (serving (requestOfCmd 0x9) .frame answers)
  (r.1, r.2.trace.drop 1)

theorem test_v12_poll_ok : xferOf frameRdsr1 [⟨1, []⟩, ⟨1, [0x02]⟩] =
    (.ok [0x02], [.txn 0 .frame [0x05] (.rx 1) 1 (some 1) [0x02] true]) := by decide

theorem test_v12_command_short : xferOf frameRdsr1 [⟨0, []⟩] =
    (.fail, [.txn 0 .frame [0x05] (.rx 1) 0 none [] false]) := by decide

theorem test_v12_command_long : xferOf frameRdsr1 [⟨2, []⟩] =
    (.fail, [.txn 0 .frame [0x05] (.rx 1) 2 none [] false]) := by decide

theorem test_v12_receive_short : xferOf (frameRead 0x123456 2) [⟨4, []⟩, ⟨1, [0xDE]⟩] =
    (.fail, [.txn 0 .frame [0x03, 0x12, 0x34, 0x56] (.rx 2) 4 (some 1) [] false]) := by decide

theorem test_v12_receive_none : xferOf (frameRead 0x123456 0) [⟨4, []⟩] =
    (.ok [], [.txn 0 .frame [0x03, 0x12, 0x34, 0x56] (.rx 0) 4 none [] true]) := by decide

theorem test_v12_payload_long : xferOf (framePp 0x001000 [0xAA, 0xBB]) [⟨4, []⟩, ⟨3, []⟩] =
    (.fail, [.txn 0 .frame [0x02, 0x00, 0x10, 0x00] (.tx [0xAA, 0xBB]) 4 (some 3) [] false]) := by
  decide

theorem test_v12_payload_empty : xferOf (framePp 0x001000 []) [⟨4, []⟩] =
    (.ok [], [.txn 0 .frame [0x02, 0x00, 0x10, 0x00] (.tx []) 4 none [] true]) := by decide

/-! ### V11 and V14: the gates -/

/-- A PROGRAM of one byte. -/
def program0 : Request := { requestOfCmd 0x3 with wdata := [0x00] }

theorem test_v11_busy_gate :
    [0x00, 0x01, 0x02, 0x03, 0xFC, 0xFD, 0xFE, 0xFF, 0x80].map
        (fun b => (busyDecide 0 b (serving program0 .preBg [])).stage) =
      [.wgWren, .preBg, .wgWren, .preBg, .wgWren, .preBg, .wgWren, .preBg, .wgWren] := by decide

theorem test_v11_write_gate :
    [0x00, 0x01, 0x02, 0x03, 0xFC, 0xFD, 0xFE, 0xFF, 0x80].map
        (fun b => (wgDecide 0 b (serving program0 .wgPoll [])).stage) =
      [.wgWren, .wgWren, .frame, .frame, .wgWren, .wgWren, .frame, .frame, .wgWren] := by decide

theorem test_v14_busy_abort :
    slotGet (busyPoll .abort 0 (serving program0 .preBg [⟨0, []⟩])).resp 0 =
      some ⟨.error, .transaction, []⟩ := by decide

theorem test_v14_busy_ignore :
    (busyPoll .ignore 0 (serving program0 .preBg [⟨0, []⟩, ⟨1, [0x00]⟩])).stage = .wgWren := by decide

theorem test_v14_busy_ignore_again :
    (busyPoll .ignore 0 (serving program0 .preBg [⟨1, []⟩, ⟨0, []⟩, ⟨1, [0x01]⟩])).stage = .preBg := by
  decide

theorem test_v14_enable_abort :
    slotGet (wgEnable .abort 0 (serving program0 .wgWren [⟨0, []⟩])).resp 0 =
      some ⟨.error, .transaction, []⟩ := by decide

theorem test_v14_enable_ignore :
    (wgEnable .ignore 0 (serving program0 .wgWren [⟨0, []⟩])).stage = .wgPoll := by decide

theorem test_v14_poll_ignore :
    (wgPoll .ignore 0 (serving program0 .wgPoll [⟨0, []⟩, ⟨1, [0x00]⟩])).stage = .wgWren := by decide

theorem test_v14_post_gate_abort :
    (busyPoll .abort 0 (serving (requestOfCmd 0x5) .postBg [⟨1, []⟩, ⟨2, []⟩])).trace.drop 1 =
      [.txn 0 .postBg [0x05] (.rx 1) 1 (some 2) [] false,
        .resp 0 ⟨.error, .transaction, []⟩] := by decide

/-! ### V15: the operations, one step each -/

theorem test_identify_frame :
    responseOf (exec .identify (serving (requestOfCmd 0x1) .frame [⟨1, []⟩, ⟨3, [0x00, 0x01, 0x02]⟩])) =
      some ⟨.ok, .noCause, [0x00, 0x01, 0x02]⟩ := by decide

theorem test_identify_short_receive :
    eventsOf (exec .identify (serving (requestOfCmd 0x1) .frame [⟨1, []⟩, ⟨2, []⟩])) =
      [.txn 0 .frame [0x9F] (.rx 3) 1 (some 2) [] false, .resp 0 ⟨.error, .transaction, []⟩] := by
  decide

theorem test_read_frame :
    eventsOf (exec (.read 0x123456 2)
        (serving { withAddr 0x2 0x123456 with rlen := 2 } .frame [⟨4, []⟩, ⟨2, [0xDE, 0xAD]⟩])) =
      [.txn 0 .frame [0x03, 0x12, 0x34, 0x56] (.rx 2) 4 (some 2) [0xDE, 0xAD] true,
        .resp 0 ⟨.ok, .noCause, [0xDE, 0xAD]⟩] := by decide

theorem test_read_of_none :
    eventsOf (exec (.read 0xABCDEF 0) (serving (withAddr 0x2 0xABCDEF) .frame [⟨4, []⟩])) =
      [.txn 0 .frame [0x03, 0xAB, 0xCD, 0xEF] (.rx 0) 4 none [] true,
        .resp 0 ⟨.ok, .noCause, []⟩] := by decide

theorem test_program_frame :
    eventsOf (exec (.program 0x001000 [0xAA, 0xBB])
        (serving { withAddr 0x3 0x001000 with wdata := [0xAA, 0xBB] } .frame [⟨4, []⟩, ⟨2, []⟩])) =
      [.txn 0 .frame [0x02, 0x00, 0x10, 0x00] (.tx [0xAA, 0xBB]) 4 (some 2) [] true,
        .resp 0 ⟨.ok, .noCause, []⟩] := by decide

theorem test_program_short :
    responseOf (exec (.program 0x001000 [0xAA, 0xBB])
        (serving { withAddr 0x3 0x001000 with wdata := [0xAA, 0xBB] } .frame [⟨4, []⟩, ⟨1, []⟩])) =
      some ⟨.error, .transaction, []⟩ := by decide

theorem test_erase_sector_frame :
    eventsOf (exec (.eraseSector 0x1000)
        (serving { requestOfCmd 0x4 with sector := 0x1000 } .frame [⟨4, []⟩])) =
      [.txn 0 .frame [0x20, 0x00, 0x00, 0x00] .noData 4 none [] true] := by decide

theorem test_erase_sector_fails :
    eventsOf (exec (.eraseSector 3) (serving { requestOfCmd 0x4 with sector := 3 } .frame [⟨2, []⟩])) =
      [.txn 0 .frame [0x20, 0x00, 0x30, 0x00] .noData 2 none [] false,
        .resp 0 ⟨.error, .transaction, []⟩] := by decide

theorem test_erase_chip_frame :
    stageOf (exec .eraseChip (serving (requestOfCmd 0x5) .frame [⟨1, []⟩])) = some .postBg := by decide

theorem test_erase_chip_answers_after_post_gate :
    responseOf (exec .eraseChip (serving (requestOfCmd 0x5) .postBg [⟨1, []⟩, ⟨1, [0x00]⟩])) =
      some ⟨.ok, .noCause, []⟩ := by decide

theorem test_write_sr_frame :
    [stageFrame true (.writeSr 0xFC 0xFF) .preBg, stageFrame false (.writeSr 0xFC 0xFF) .preBg,
        stageFrame false (.writeSr 0xFC 0xFF) .wgWren, stageFrame false (.writeSr 0xFC 0xFF) .frame] =
      [some .rdsr1, none, some .wren, some (.wrsr 0xFC 0xFF)] := by decide

theorem test_write_sr_transaction : xferOf (frameWrsr 0x00 0x02) [⟨1, []⟩, ⟨2, []⟩] =
    (.ok [], [.txn 0 .frame [0x01] (.tx [0x00, 0x02]) 1 (some 2) [] true]) := by decide

theorem test_write_enable_frame :
    eventsOf (exec .writeEnable (serving (requestOfCmd 0x7) .frame [⟨1, []⟩])) =
      [.txn 0 .frame [0x06] .noData 1 none [] true, .resp 0 ⟨.ok, .noCause, []⟩] := by decide

theorem test_write_disable_fails :
    eventsOf (exec .writeDisable (serving (requestOfCmd 0x8) .frame [⟨0, []⟩])) =
      [.txn 0 .frame [0x04] .noData 0 none [] false, .resp 0 ⟨.error, .transaction, []⟩] := by decide

theorem test_read_sr1_frame :
    responseOf (exec .readSr1 (serving (requestOfCmd 0x9) .frame [⟨1, []⟩, ⟨1, [0xFD]⟩])) =
      some ⟨.ok, .noCause, [0xFD]⟩ := by decide

theorem test_read_sr2_frame :
    eventsOf (exec .readSr2 (serving (requestOfCmd 0xA) .frame [⟨1, []⟩, ⟨1, [0x02]⟩])) =
      [.txn 0 .frame [0x35] (.rx 1) 1 (some 1) [0x02] true, .resp 0 ⟨.ok, .noCause, [0x02]⟩] := by
  decide

theorem test_init_reset_enable :
    stageOf (exec .init (serving (requestOfCmd 0xB) .rsten [⟨1, []⟩])) = some .rst := by decide

theorem test_init_reset_fails :
    eventsOf (exec .init (serving (requestOfCmd 0xB) .rst [⟨2, []⟩])) =
      [.txn 0 .rst [0x99] .noData 2 none [] false, .resp 0 ⟨.error, .transaction, []⟩] := by decide

/-- V8: any byte that deviates is a mismatch, with the bytes as data. -/
theorem test_v8_identities :
    [[0xEF, 0x40, 0x17], [0xEF, 0x40, 0x16], [0xEE, 0x40, 0x17], [0x17, 0x40, 0xEF],
        [0xEF, 0x40, 0x97]].map
        (fun bs => responseOf (exec .init (serving (requestOfCmd 0xB) .frame [⟨1, []⟩, ⟨3, bs⟩]))) =
      [some ⟨.ok, .noCause, [0xEF, 0x40, 0x17]⟩, some ⟨.error, .idMismatch, [0xEF, 0x40, 0x16]⟩,
        some ⟨.error, .idMismatch, [0xEE, 0x40, 0x17]⟩, some ⟨.error, .idMismatch, [0x17, 0x40, 0xEF]⟩,
        some ⟨.error, .idMismatch, [0xEF, 0x40, 0x97]⟩] := by decide

theorem test_reserved_codes :
    [0x0, 0xC, 0xD, 0xE, 0xF].map
        (fun c => eventsOf (step (posted (requestOfCmd c) []))) =
      [0x0, 0xC, 0xD, 0xE, 0xF].map fun c =>
        [.grant 0 (requestOfCmd c), .resp 0 ⟨.error, .illegalCmd, []⟩] := by decide

theorem test_grant_first_stage :
    [0x1, 0x2, 0x3, 0x4, 0x5, 0x7, 0x8, 0x9, 0xA, 0xB].map
        (fun c => stageOf (step (posted (requestOfCmd c) []))) =
      [some .frame, some .preBg, some .preBg, some .preBg, some .preBg, some .frame, some .frame,
        some .frame, some .frame, some .rsten] := by decide

/-! ### V17 and V18: ports and reset -/

theorem test_v17_post : (post 2 4 0 (requestOfCmd 0x9) State.reset).pend = [(0, requestOfCmd 0x9)] := by
  decide

theorem test_v17_post_twice :
    (post 2 4 0 (requestOfCmd 0x9) (posted (requestOfCmd 0x5) [])).pend = [(0, requestOfCmd 0x5)] := by
  decide

theorem test_v17_post_untaken :
    (post 2 4 0 (requestOfCmd 0x9) { State.reset with resp := [(0, ⟨.ok, .noCause, []⟩)] }).pend = [] := by
  decide

theorem test_v17_post_while_serving :
    (post 2 4 1 (requestOfCmd 0x9) (serving (requestOfCmd 0x5) .preBg [])).pend =
      [(0, requestOfCmd 0x5), (1, requestOfCmd 0x9)] := by decide

theorem test_v17_nothing_pending : step State.reset = .next State.reset := by rfl

theorem test_v17_take :
    (take 1 { State.reset with resp := [(0, ⟨.ok, .noCause, []⟩), (1, ⟨.ok, .noCause, [0x01]⟩)] }).resp =
      [(0, ⟨.ok, .noCause, []⟩)] := by decide

theorem test_v18_reset :
    (blockReset { serving (requestOfCmd 0x5) .postBg [] with
        pend := [(0, requestOfCmd 0x5), (1, requestOfCmd 0x9)]
        resp := [(2, ⟨.ok, .noCause, []⟩)] }) =
      { State.reset with op := requestOfCmd 0x5, trace := [.reset, .reset] } := by decide

/-! ### R101: the notation -/

theorem test_notation_read :
    lineText 1 (.read 0x123456 2) = some "h1: READ addr=0x123456, len=2".toList := by decide

theorem test_notation_program :
    operationText (.program 0x001000 [0xAA, 0xBB]) =
      some "PROGRAM addr=0x001000, data=[AA BB]".toList := by decide

theorem test_notation_frame :
    (frameText (framePp 0x001000 [0xAA])).drop 1 = "02 00 10 00 AA".toList ++ [Char.ofNat 125] := by
  decide

/-! ### Witnesses: a state and operands that meet all hypotheses of a statement together -/

/-- Host 0 exists for every `N_HOSTS` (R6). -/
theorem host_zero : 0 < Config.nHosts := by
  unfold Config.nHosts
  exact Nat.succ_pos _

/-- The agenda of a state. -/
def withTurns (ts : List Turn) (s : State) : State := { s with turns := ts }

theorem witness_ResetTurnResetsTheBlock :
    (withTurns [.reset] (serving (requestOfCmd 0x5) .postBg [])).turns = [.reset] := by decide

theorem witness_PostFillsTheSlot :
    (withTurns [.post 0 (requestOfCmd 0xF)] State.reset).turns = [.post 0 (requestOfCmd 0xF)] ∧
      0 < Config.nHosts ∧ (requestOfCmd 0xF).wf = true ∧ slotGet State.reset.pend 0 = none ∧
      slotGet State.reset.resp 0 = none :=
  ⟨rfl, host_zero, Laws.EncodedForm.plain_request_wf 0xF, rfl, rfl⟩

theorem witness_TakeEmptiesTheSlot :
    slotGet { withTurns [.take 0] State.reset with resp := [(0, ⟨.ok, .noCause, []⟩)] }.resp 0 =
      some ⟨.ok, .noCause, []⟩ := by decide

/-- A full slot; an untaken response; a host that does not exist; a payload or length too long. -/
theorem witness_DisabledTurnsChangeNothing :
    slotGet (withTurns [.post 0 (requestOfCmd 0x9)] (posted (requestOfCmd 0x5) [])).pend 0 ≠ none ∧
    slotGet { withTurns [.post 0 (requestOfCmd 0x9)] State.reset with
      resp := [(0, ⟨.ok, .noCause, []⟩)] }.resp 0 ≠ none ∧
    Config.nHosts ≤ Config.nHosts ∧
    { requestOfCmd 0x2 with rlen := 2 ^ Config.lenW }.wf = false ∧
    slotGet (withTurns [.take 0] State.reset).resp 0 = none ∧
    State.reset.turns = [] ∧ State.reset.stage = .idle ∧ State.reset.pend = [] :=
  ⟨by decide, by decide, Nat.le_refl _, by simp [Request.wf, Request.wfAt, rlenFits], rfl, rfl, rfl, rfl⟩

theorem witness_StepRunsTheFetchedInstruction :
    (posted (requestOfCmd 0x9) []).stage = .idle ∧
    arbitrate (posted (requestOfCmd 0x9) []) = some (0, requestOfCmd 0x9) ∧
    (serving (requestOfCmd 0x9) .frame []).stage ≠ .idle ∧
    (serving (requestOfCmd 0x9) .frame []).turns = [] ∧
    fetch (serving (requestOfCmd 0x9) .frame []) = some .rdsr1 ∧
    fetch (posted (requestOfCmd 0x9) []) = some .readSr1 := by decide

/-- One for each operation. -/
theorem witness_GrantStartsTheOperation :
    ([0x1, 0x2, 0x3, 0x4, 0x5, 0x6, 0x7, 0x8, 0x9, 0xA, 0xB].all fun c =>
      decide ((posted (requestOfCmd c) []).stage = .idle) &&
      decide (arbitrate (posted (requestOfCmd c) []) = some (0, requestOfCmd c)) &&
      isOperation (decodeRequest (requestOfCmd c))) = true := by decide

/-- One for each reserved code. -/
theorem witness_ReservedCodeAnsweredAtGrant :
    ([0x0, 0xC, 0xD, 0xE, 0xF].all fun c =>
      decide ((posted (requestOfCmd c) []).stage = .idle) &&
      decide (arbitrate (posted (requestOfCmd c) []) = some (0, requestOfCmd c)) &&
      decide (decodeRequest (requestOfCmd c) ∈
        [.reserved0, .reservedC, .reservedD, .reservedE, .reservedF])) = true := by decide

theorem witness_ArbiterPicksAPendingHost : [0, 1] ≠ ([] : List Nat) := by decide

/-- One for each clause with a hypothesis: a first entry, an entry after another, a last entry, a stage
advance and an END. -/
theorem witness_StageRowsOfTheSequencer :
    stageRow false (.read 0 0) = .preBg :: [.frame] ∧
    stageRow false (.read 0 0) = [] ++ .preBg :: .frame :: [] ∧
    stageRow false (.read 0 0) = [.preBg] ++ [.frame] ∧
    nextStage Config.wrsrWait (decodeRequest (serving (requestOfCmd 0x2) .preBg []).op)
      (serving (requestOfCmd 0x2) .preBg []).stage = some .frame ∧
    nextStage Config.wrsrWait (decodeRequest (serving (requestOfCmd 0x2) .frame []).op)
      (serving (requestOfCmd 0x2) .frame []).stage = none :=
  ⟨rfl, rfl, rfl, rfl, rfl⟩

theorem witness_WireSelectsOncePerTransaction :
    1 = ([0x06] : List Byte).length ∧ 0 ≠ ([0x06] : List Byte).length := by decide

/-- The pre-gate of a READ and the post-gate of an ERASE_CHIP. -/
theorem witness_BusyGatePollStep :
    (serving (requestOfCmd 0x2) .preBg []).owner = some 0 ∧
    (serving (requestOfCmd 0x2) .preBg []).stage = .preBg ∧
    Stage.preBg ∈ stageRow Config.wrsrWait (decodeRequest (serving (requestOfCmd 0x2) .preBg []).op) ∧
    (serving (requestOfCmd 0x5) .postBg []).owner = some 0 ∧
    (serving (requestOfCmd 0x5) .postBg []).stage = .postBg ∧
    Stage.postBg ∈ stageRow Config.wrsrWait (decodeRequest (serving (requestOfCmd 0x5) .postBg []).op) :=
  ⟨rfl, rfl, List.mem_cons_self, rfl, rfl, by
    show Stage.postBg ∈ [Stage.preBg, .wgWren, .wgPoll, .frame, .postBg]
    decide⟩

theorem witness_WriteGateEnableStep :
    (serving program0 .wgWren []).owner = some 0 ∧ (serving program0 .wgWren []).stage = .wgWren ∧
    (serving program0 .wgWren []).stage ∈
      stageRow Config.wrsrWait (decodeRequest (serving program0 .wgWren []).op) ∧
    nextStage false (.program 0 []) .wgWren = some .wgPoll := by decide

theorem witness_WriteGatePollStep :
    (serving program0 .wgPoll []).owner = some 0 ∧ (serving program0 .wgPoll []).stage = .wgPoll ∧
    (serving program0 .wgPoll []).stage ∈
      stageRow Config.wrsrWait (decodeRequest (serving program0 .wgPoll []).op) :=
  ⟨rfl, rfl, by
    show Stage.wgPoll ∈ [Stage.preBg, .wgWren, .wgPoll, .frame]
    decide⟩

theorem witness_GatesReadOneBitEach :
    (0x02 : Byte).getLsbD 0 = (0xFC : Byte).getLsbD 0 ∧
    (0x01 : Byte).getLsbD 1 = (0xFD : Byte).getLsbD 1 ∧ (0x03 : Byte).getLsbD 1 = true := by decide

/-- A READ at its pre-gate, with two busy polls to come and then a clear one. -/
def busyTwice : State := serving (requestOfCmd 0x2) .preBg (pollScript ([0x01, 0xFF] ++ [0xFE]))

theorem witness_BusyGatePollsWithoutLimit :
    busyTwice.turns = [] ∧ busyTwice.csN = 1 ∧ busyTwice.owner = some 0 ∧ busyTwice.stage = .preBg ∧
    busyTwice.stage ∈ stageRow Config.wrsrWait (decodeRequest busyTwice.op) ∧
    (∀ b ∈ ([0x01, 0xFF] : List Byte), b.getLsbD 0 = true) ∧
    busyTwice.answers = pollScript [0x01, 0xFF] ++ pollScript [0xFE] := by decide

theorem witness_BusyGateExitsAtTheFirstClearPoll :
    busyTwice.turns = [] ∧ busyTwice.csN = 1 ∧ busyTwice.owner = some 0 ∧ busyTwice.stage = .preBg ∧
    busyTwice.stage ∈ stageRow Config.wrsrWait (decodeRequest busyTwice.op) ∧
    (∀ b ∈ ([0x01, 0xFF] : List Byte), b.getLsbD 0 = true) ∧ (0xFE : Byte).getLsbD 0 = false ∧
    busyTwice.answers = pollScript ([0x01, 0xFF] ++ [0xFE]) ++ [] := by decide

/-- A PROGRAM at its write-gate, with two polls to come that read WEL clear and then one that reads it
set. -/
def offTwice : State := serving program0 .wgWren (wgScript ([0x00, 0xFD] ++ [0x02]))

theorem witness_WriteGateAlternatesUntilEnabled :
    offTwice.turns = [] ∧ offTwice.csN = 1 ∧ offTwice.owner = some 0 ∧ offTwice.stage = .wgWren ∧
    offTwice.stage ∈ stageRow Config.wrsrWait (decodeRequest offTwice.op) ∧
    (∀ b ∈ ([0x00, 0xFD] : List Byte), b.getLsbD 1 = false) ∧ (0x02 : Byte).getLsbD 1 = true ∧
    offTwice.answers = wgScript ([0x00, 0xFD] ++ [0x02]) ++ [] := by decide

/-- The eleven operations' own statements: owner, code and stage, at every stage that a statement names. -/
theorem witness_operations :
    ([(0x1, .frame), (0x2, .preBg), (0x2, .frame), (0x3, .preBg), (0x3, .wgWren), (0x3, .wgPoll),
        (0x3, .frame), (0x4, .preBg), (0x4, .postBg), (0x4, .wgWren), (0x4, .wgPoll), (0x4, .frame),
        (0x5, .preBg), (0x5, .postBg), (0x5, .wgWren), (0x5, .wgPoll), (0x5, .frame), (0x6, .preBg),
        (0x6, .wgWren), (0x6, .wgPoll), (0x6, .frame), (0x7, .frame), (0x8, .frame), (0x9, .frame),
        (0xA, .frame), (0xB, .rsten), (0xB, .rst), (0xB, .frame)].all fun (p : Cmd × Stage) =>
      let s := serving (requestOfCmd p.1) p.2 []
      decide (s.owner = some 0) && decide (s.op.cmd = p.1) && decide (s.stage = p.2)) = true := by decide

/-- ERASE_SECTOR's address at the top of the address space and past it (V9). -/
theorem witness_EraseSectorAddress :
    (0xFFF000 : Addr).toNat = ((0x0FFF : Sector).toNat * 4096) % 2 ^ 24 ∧
    (0x000000 : Addr).toNat = ((0x1000 : Sector).toNat * 4096) % 2 ^ 24 := by decide

theorem witness_SectorAddressIsTruncated :
    (0x0001 : Sector).toNat % 4096 = (0x1001 : Sector).toNat % 4096 := by decide

theorem witness_DecodeEncodeGivesTheInstruction :
    (Instr.read 0xFFFFFF 1).wf = true ∧ (Instr.se 0xFFF000).wf = true :=
  ⟨by simp [Instr.wf, Instr.wfAt, rlenFits, Config.lenW], by decide⟩

theorem witness_WireReaderRecoversTheFrame :
    (Instr.readData 0xFFFFFF 1).wf = true ∧
      encode (.readData 0xFFFFFF 1) = .frame ⟨[0x03, 0xFF, 0xFF, 0xFF], .rx 1⟩ :=
  ⟨by simp [Instr.wf, Instr.wfAt, rlenFits, Config.lenW], by decide⟩

theorem witness_OnlyEncodedFramesDecode :
    decodeFrame ⟨[0x20, 0xFF, 0xF0, 0x00], .noData⟩ = .ok (.se 0xFFF000) := by decide

theorem witness_CommandCodesSelectTheOperations :
    ((List.range 16).all fun c =>
      decide ((requestOfCmd (BitVec.ofNat 4 c)).cmd = BitVec.ofNat 4 c)) = true := by decide

theorem witness_MutatingFramesAreFour : encode .ce = .frame ⟨[0xC7], .noData⟩ := by decide

theorem witness_BytesMovedByEachOperation :
    ownFrame (.writeSr 0x00 0x02) = some (.wrsr 0x00 0x02) ∧
      encode (.wrsr 0x00 0x02) = .frame ⟨[0x01], .tx [0x00, 0x02]⟩ ∧
      Stage.rsten ≠ .frame ∧ stageFrame false .init .rsten = some .rsten ∧
      encode .rsten = .frame ⟨[0x66], .noData⟩ := by decide

theorem witness_UnreadRequestFieldsHaveNoEffect :
    (serving (requestOfCmd 0x9) .frame [⟨1, []⟩, ⟨1, [0xFD]⟩]).stage ≠ .idle ∧
    decodeRequest (withAddr 0x9 0x123456) = decodeRequest (requestOfCmd 0x9) ∧
    ∃ t, engineStep (serving (requestOfCmd 0x9) .frame [⟨1, []⟩, ⟨1, [0xFD]⟩]) = .next t :=
  ⟨by decide, by decide, _, rfl⟩

/-- A state in the middle of an IDENTIFY. -/
def midIdentify : State :=
  { serving (requestOfCmd 0x1) .frame [⟨1, []⟩, ⟨3, [0xEF, 0x40, 0x17]⟩] with
    trace := [.reset, .grant 0 (requestOfCmd 0x1)] }

theorem midIdentify_steps : ∃ t, step midIdentify = .next t := ⟨_, rfl⟩

/-- A frame that the sequencer sends, in full and (with no byte taken) failing. -/
theorem witness_OneEventPerTransaction :
    midIdentify.owner = some 0 ∧ currentFrame midIdentify = some .rdid ∧
    encode .rdid = .frame frameRdid ∧ txnOk frameRdid midIdentify = true ∧
    txnOk frameRdid { midIdentify with answers := [⟨0, []⟩] } = false := by decide

theorem witness_StepKeepsTheStateInvariant :
    StateInv midIdentify ∧ ∃ t, step midIdentify = .next t := by
  refine ⟨⟨rfl, ⟨?_, ?_⟩, ?_, ?_, ?_, ?_, ?_, ?_, ?_⟩, midIdentify_steps⟩
  · intro h; cases h
  · intro h; cases h
  · intro h ho; cases ho; rfl
  · intro _; exact List.mem_cons_self
  · show ([0] : List Nat).Pairwise (· < ·); decide
  · show ([] : List Nat).Pairwise (· < ·); decide
  · intro p hp
    rcases List.mem_singleton.1 hp with rfl
    exact ⟨host_zero, Laws.EncodedForm.plain_request_wf 0x1⟩
  · intro p hp; cases hp
  · intro h _; rfl

theorem witness_StepEmitsOnlyTheSpecifiedEvents :
    EventsInv midIdentify ∧ ∃ t, step midIdentify = .next t := by
  refine ⟨⟨?_, by intro p hp; cases hp⟩, midIdentify_steps⟩
  intro e he
  simp only [midIdentify, List.mem_cons, List.not_mem_nil, or_false] at he
  rcases he with rfl | rfl <;> trivial

theorem witness_StepKeepsChipSelectExclusive :
    OwnershipInv midIdentify ∧ ∃ t, step midIdentify = .next t :=
  ⟨⟨rfl, by intro h; cases h⟩, midIdentify_steps⟩

/-- A PROGRAM at its frame, just let through its write-gate. -/
def midProgram : State :=
  { serving program0 .frame [⟨4, []⟩, ⟨1, []⟩] with
    trace := [.txn 0 .wgPoll [0x05] (.rx 1) 1 (some 1) [0x02] true] }

theorem witness_StepKeepsTheWriteGateProperty :
    WriteGateInv midProgram ∧ ∃ t, step midProgram = .next t := by
  refine ⟨⟨⟨(by intro h; cases h), trivial⟩, ?_⟩, _, rfl⟩
  intro _ _ h ho
  cases ho
  exact ⟨_, rfl, .inl ⟨1, some 1, 0x02, rfl, rfl⟩⟩

/-- A READ at its frame, just let through its pre-gate. -/
def midRead : State :=
  { serving (requestOfCmd 0x2) .frame [⟨4, []⟩] with
    trace := [.txn 0 .preBg [0x05] (.rx 1) 1 (some 1) [0x02] true] }

theorem witness_StepKeepsTheBusyGateProperty :
    BusyGateInv midRead ∧ ∃ t, step midRead = .next t := by
  refine ⟨⟨⟨⟨(by intro h; cases h), (by intro h; cases h)⟩, trivial⟩, ?_⟩, _, rfl⟩
  intro h ho
  cases ho
  exact ⟨fun _ _ => ⟨_, rfl, .inl ⟨1, some 1, 0x02, rfl, rfl⟩⟩, by intro h; cases h⟩

theorem witness_OwnerKeepsTheEngine :
    midIdentify.owner = some 0 ∧ midIdentify.stage ≠ .idle ∧ ∃ t, step midIdentify = .next t :=
  ⟨rfl, by decide, midIdentify_steps⟩

theorem witness_IdleStepDoesNotReadTheLatchedRequest :
    (posted (requestOfCmd 0x9) []).stage = .idle := by decide

theorem witness_OperationStepIsItsFrameStep :
    midIdentify.stage ≠ .idle ∧ currentFrame midIdentify = some .rdid := by decide

/-- A grant and a frame, each with the premises about another host. -/
theorem witness_ExecLeavesTheRestUnchanged :
    (∃ t, exec .readSr1 (posted (requestOfCmd 0x9) []) = .next t) ∧
    (∀ q, arbitrate (posted (requestOfCmd 0x9) []) ≠ some (1, q)) ∧
    (∃ t, exec .identify midIdentify = .next t) ∧ midIdentify.owner ≠ some 1 :=
  ⟨⟨_, rfl⟩, (by intro q h; cases h), ⟨_, rfl⟩, by decide⟩

theorem witness_TraceOnlyGrows : ∃ t, step midIdentify = .next t := midIdentify_steps

/-- An ERASE_CHIP at its pre-gate, whose gates open after one more poll, at once and at once. -/
def erasingChip : State :=
  serving (requestOfCmd 0x5) .preBg
    (pollScript [0x01, 0x00] ++ wgScript [0x02] ++ [⟨1, []⟩] ++ pollScript [0x00])

/-- The state that its run of six steps leaves. -/
def erasedChip : State :=
  match steps 6 erasingChip with
  | .next t => t
  | .fault _ => State.reset
  | .refused _ => State.reset

/-- Its run keeps the engine for six steps, and is at rest from then on. -/
theorem erasingChip_atRest (k : Nat) : steps (6 + k) erasingChip = .next erasedChip := by
  rw [steps_add 6 k erasingChip erasedChip rfl]
  induction k with
  | zero => rfl
  | succ k ih => exact ih

theorem witness_GrantedOperationEnds :
    StateInv erasingChip ∧ erasingChip.owner = some 0 ∧ Turn.reset ∉ erasingChip.turns ∧
      chipWipClears erasingChip ∧ chipWelSets erasingChip := by
  refine ⟨⟨rfl, ⟨?_, ?_⟩, ?_, ?_, ?_, ?_, ?_, ?_, ?_⟩, rfl, by decide, ?_, ?_⟩
  · intro h; cases h
  · intro h; cases h
  · intro h ho; cases ho; rfl
  · intro _; exact List.mem_cons_self
  · show ([0] : List Nat).Pairwise (· < ·); decide
  · show ([] : List Nat).Pairwise (· < ·); decide
  · intro p hp
    rcases List.mem_singleton.1 hp with rfl
    exact ⟨host_zero, Laws.EncodedForm.plain_request_wf 0x5⟩
  · intro p hp; cases hp
  · intro h _; rfl
  · intro n t h hs ho hst
    match n, hs with
    | 0, hs => cases hs; cases ho; exact ⟨1, 0x00, rfl, rfl⟩
    | 1, hs => cases hs; cases ho; exact ⟨0, 0x00, rfl, rfl⟩
    | 2, hs => cases hs; exact absurd hst (by decide)
    | 3, hs => cases hs; exact absurd hst (by decide)
    | 4, hs => cases hs; exact absurd hst (by decide)
    | 5, hs => cases hs; cases ho; exact ⟨0, 0x00, rfl, rfl⟩
    | k + 6, hs =>
      rw [Nat.add_comm, erasingChip_atRest] at hs
      cases hs; cases ho
  · intro n t h hs ho hst
    match n, hs with
    | 0, hs => cases hs; exact absurd hst (by decide)
    | 1, hs => cases hs; exact absurd hst (by decide)
    | 2, hs => cases hs; cases ho; exact ⟨0, 0x02, rfl, rfl⟩
    | 3, hs => cases hs; cases ho; exact ⟨0, 0x02, rfl, rfl⟩
    | 4, hs => cases hs; exact absurd hst (by decide)
    | 5, hs => cases hs; exact absurd hst (by decide)
    | k + 6, hs =>
      rw [Nat.add_comm, erasingChip_atRest] at hs
      cases hs; cases ho

/-- An ERASE_SECTOR at its pre-gate, with one poll that keeps each gate shut before one that opens it. -/
def erasing : State :=
  serving { requestOfCmd 0x4 with sector := 0x0FFF } .preBg
    (pollScript ([0x01] ++ [0x00]) ++ wgScript ([0x00] ++ [0x02]) ++ [⟨4, []⟩]
      ++ pollScript ([0x03] ++ [0x00]) ++ [])

theorem witness_EraseSectorCycleCount :
    erasing.turns = [] ∧ erasing.csN = 1 ∧ erasing.owner = some 0 ∧ erasing.op.cmd = 0x4 ∧
    erasing.stage = .preBg ∧
    (∀ b ∈ ([0x01] : List Byte), b.getLsbD 0 = true) ∧ (0x00 : Byte).getLsbD 0 = false ∧
    (∀ b ∈ ([0x00] : List Byte), b.getLsbD 1 = false) ∧ (0x02 : Byte).getLsbD 1 = true ∧
    (∀ b ∈ ([0x03] : List Byte), b.getLsbD 0 = true) ∧
    erasing.answers = pollScript ([0x01] ++ [0x00]) ++ wgScript ([0x00] ++ [0x02]) ++ [⟨4, []⟩]
      ++ pollScript ([0x03] ++ [0x00]) ++ [] := by decide

end Sys2Proof.Tests
end

section
/-! Proofs for 00_scope.md (R10, R11): what `fetch` answers at each stage, and that the engine's turn is
`exec` of the instruction fetched. -/

namespace Sys2Proof.Machine

/-- At IDLE the engine fetches the operation of the request the arbiter grants (R192). -/
theorem fetch_of_arbitrate {s : State} {h : Nat} {q : Request} (hi : s.stage = .idle)
    (ha : arbitrate s = some (h, q)) : fetch s = some (decodeRequest q) := by
  simp [fetch, hi, ha]

/-- After the grant the engine fetches the frame the sequencer sends (R24, R119). -/
theorem fetch_of_stage_ne_idle {s : State} (hi : s.stage ≠ .idle) : fetch s = currentFrame s :=
  if_neg hi

theorem engineStep_of_fetch {s : State} {i : Instr} (hf : fetch s = some i) :
    engineStep s = exec i s := by
  simp [engineStep, hf]

/-- With nothing on the agenda the engine moves. -/
theorem step_of_turns_nil {s : State} (hn : s.turns = []) : step s = engineStep s := by
  simp [step, hn, turnStep]

/-- The turn at the head of the agenda is the step, on the state with the agenda read up to it. -/
theorem step_of_turns_cons {s : State} {t : Turn} {rest : List Turn} (hn : s.turns = t :: rest) :
    step s = turnStep t (s.setTurns rest) := by
  simp [step, hn]

/-- Settles O6: the two levels of `fetch`, and `exec` of what it answers at both ways to an engine turn. -/
theorem stepRunsTheFetchedInstruction : Obligations.StepRunsTheFetchedInstruction := by
  refine ⟨fun s h q hi ha => fetch_of_arbitrate hi ha, fun s hi => fetch_of_stage_ne_idle hi, ?_, ?_⟩
  · intro s i hn hf
    exact (step_of_turns_nil hn).trans (engineStep_of_fetch hf)
  · intro s i rest hn hf
    exact (step_of_turns_cons hn).trans (engineStep_of_fetch hf)

end Sys2Proof.Machine
end

section
/-! Proofs for 10_state.md (R20 to R39), the state's invariant: the slot tables after each host step and
each response, what one frame of the engine leaves, and that every step keeps `StateInv`. -/

namespace Sys2Proof.Safety

open Sys2Proof.Machine

/-! ### The slot tables -/

/-- What `StateInv` says of the two slot tables alone. -/
structure SlotTablesInv (pend : Slots Request) (resp : Slots Response) : Prop where
  pendForm : slotsWf pend
  respForm : slotsWf resp
  pendHosts : ∀ p ∈ pend, p.1 < Config.nHosts ∧ p.2.wf = true
  respHosts : ∀ p ∈ resp, p.1 < Config.nHosts ∧ responseOk p.2
  oneOutstanding : ∀ h, slotGet pend h ≠ none → slotGet resp h = none

theorem StateInv.slotTables {s : State} (hs : StateInv s) : SlotTablesInv s.pend s.resp :=
  ⟨hs.pendForm, hs.respForm, hs.pendHosts, hs.respHosts, hs.oneOutstanding⟩

/-- A reset empties both tables (R39). -/
theorem SlotTablesInv.empty : SlotTablesInv [] [] := by
  constructor <;> simp [slotsWf, slotGet]

/-- A slot that is empty stays so when another host's slot, or its own, is emptied. -/
theorem slotGet_slotClear_eq_none {α : Type} {t : Slots α} {j : Nat} (h : Nat)
    (hj : slotGet t j = none) : slotGet (slotClear t h) j = none := by
  by_cases hjh : j = h
  · rw [hjh, slotGet_slotClear_same]
  · rw [slotGet_slotClear_other t h j hjh, hj]

/-- A post into two empty slots (R191). -/
theorem SlotTablesInv.post {pend : Slots Request} {resp : Slots Response} {h : Nat} {q : Request}
    (hi : SlotTablesInv pend resp) (hh : h < Config.nHosts) (hq : q.wf = true)
    (hr : slotGet resp h = none) : SlotTablesInv (slotPut pend h q) resp where
  pendForm := slotsWf_slotPut _ _ _ hi.pendForm
  respForm := hi.respForm
  pendHosts p hp := by
    rcases mem_slotPut _ _ _ p hp with rfl | hm
    · exact ⟨hh, hq⟩
    · exact hi.pendHosts p hm
  respHosts := hi.respHosts
  oneOutstanding j hj := by
    by_cases hjh : j = h
    · rw [hjh, hr]
    · exact hi.oneOutstanding j (slotGet_slotPut_other pend h j q hjh ▸ hj)

/-- A host takes its response (R196). -/
theorem SlotTablesInv.take {pend : Slots Request} {resp : Slots Response} (h : Nat)
    (hi : SlotTablesInv pend resp) : SlotTablesInv pend (slotClear resp h) where
  pendForm := hi.pendForm
  respForm := slotsWf_slotClear _ _ hi.respForm
  pendHosts := hi.pendHosts
  respHosts p hp := hi.respHosts p (mem_slotClear _ _ _ hp)
  oneOutstanding j hj := slotGet_slotClear_eq_none h (hi.oneOutstanding j hj)

/-- An existing host's request is answered (R195). -/
theorem SlotTablesInv.answer {pend : Slots Request} {resp : Slots Response} {h : Nat} {r : Response}
    (hi : SlotTablesInv pend resp) (hh : h < Config.nHosts) (hr : responseOk r) :
    SlotTablesInv (slotClear pend h) (slotPut resp h r) where
  pendForm := slotsWf_slotClear _ _ hi.pendForm
  respForm := slotsWf_slotPut _ _ _ hi.respForm
  pendHosts p hp := hi.pendHosts p (mem_slotClear _ _ _ hp)
  respHosts p hp := by
    rcases mem_slotPut _ _ _ p hp with rfl | hm
    · exact ⟨hh, hr⟩
    · exact hi.respHosts p hm
  oneOutstanding j hj := by
    by_cases hjh : j = h
    · exact absurd (hjh ▸ slotGet_slotClear_same pend h) hj
    · rw [slotGet_slotPut_other resp h j r hjh]
      exact hi.oneOutstanding j (slotGet_slotClear_other pend h j hjh ▸ hj)

/-- A host whose request is pending exists (R190). -/
theorem SlotTablesInv.host_exists {pend : Slots Request} {resp : Slots Response} {h : Nat} {q : Request}
    (hi : SlotTablesInv pend resp) (hq : slotGet pend h = some q) : h < Config.nHosts :=
  (hi.pendHosts _ (mem_of_slotGet pend h q hq)).1

/-! ### A free and a serving engine -/

/-- The state invariant of a free engine is that of the slot tables. -/
theorem stateInv_of_free {s : State} (hcs : s.csN = 1) (ho : s.owner = none) (hst : s.stage = .idle)
    (hslots : SlotTablesInv s.pend s.resp) : StateInv s where
  csHigh := hcs
  ownerIdle := by simp [ho, hst]
  ownerSlot h hh := by simp [ho] at hh
  stageInRow hne := absurd hst hne
  pendForm := hslots.pendForm
  respForm := hslots.respForm
  pendHosts := hslots.pendHosts
  respHosts := hslots.respHosts
  oneOutstanding := hslots.oneOutstanding

/-- The state invariant of an engine that serves the pending request of host `h`. -/
theorem stateInv_of_serving {s : State} {h : Nat} (hcs : s.csN = 1) (ho : s.owner = some h)
    (hq : slotGet s.pend h = some s.op) (hrow : s.stage ∈ stageRow Config.wrsrWait (currentOp s))
    (hslots : SlotTablesInv s.pend s.resp) : StateInv s where
  csHigh := hcs
  ownerIdle := by
    have hne : s.stage ≠ .idle := fun he => idle_notMem_stageRow _ _ (he ▸ hrow)
    simp [ho, hne]
  ownerSlot j hj := by
    obtain rfl : h = j := Option.some.inj (ho.symm.trans hj)
    exact hq
  stageInRow _ := hrow
  pendForm := hslots.pendForm
  respForm := hslots.respForm
  pendHosts := hslots.pendHosts
  respHosts := hslots.respHosts
  oneOutstanding := hslots.oneOutstanding

/-- An answer to a pending request leaves a free engine (R195). -/
theorem stateInv_answered {s : State} {h : Nat} {q : Request} {r : Result} {c : Cause} {d : List Byte}
    (hcs : s.csN = 1) (hslots : SlotTablesInv s.pend s.resp) (hq : slotGet s.pend h = some q)
    (hr : responseOk ⟨r, c, d⟩) : StateInv (answered h r c d s) :=
  stateInv_of_free hcs rfl rfl (hslots.answer (hslots.host_exists hq) hr)

/-! ### The engine's moves -/

/-- Using up one more answer after a cycle is a cycle that used one more. -/
theorem cycled_consume (h : Nat) (f : Frame) (n1 : Nat) (n2 : Option Nat) (rx : List Byte) (ok : Bool)
    (k : Nat) (s : State) :
    (cycled h f n1 n2 rx ok k s).consume = cycled h f n1 n2 rx ok (k + 1) s := by
  simp [cycled, State.consume, Nat.add_assoc]

/-- Everything the engine's frame can leave, from one cycle of the owner on: the same stage, another stage
of the row, or the owner answered. -/
theorem runFrame_leaves_cycled {s : State} {j : Instr} (h : Nat) (hf : currentFrame s = some j) :
    ∃ f n1 n2 rx ok k, leaves h (cycled h f n1 n2 rx ok k s) (runFrame j h s) := by
  obtain ⟨f, u, -, hu, hl⟩ := runFrame_leaves s j h hf
  obtain ⟨n1, n2, rx, ok, k, hx, -⟩ := xfer_cases h f s
  rw [hx] at hu
  rcases hu with rfl | rfl
  · exact ⟨f, n1, n2, rx, ok, k, hl⟩
  · exact ⟨f, n1, n2, rx, ok, k + 1, cycled_consume h f n1 n2 rx ok k s ▸ hl⟩

/-- A reserved code is answered as the block writes errors (R194). -/
theorem responseOk_illegalCmd : responseOk ⟨.error, .illegalCmd, []⟩ := by
  simp [responseOk]

/-- The grant step keeps the invariant (R192, R194). -/
theorem stateInv_grantTo {s : State} {h : Nat} {q : Request} (hs : StateInv s)
    (ha : arbitrate s = some (h, q)) : StateInv (grantTo Config.wrsrWait h q s) := by
  have hq := arbitrate_slot s h q ha
  rcases grantTo_cases Config.wrsrWait h q s with ⟨st, hfirst, he⟩ | ⟨-, he⟩ <;> rw [he]
  · exact stateInv_of_serving (h := h) hs.csHigh rfl hq (List.mem_of_mem_head? hfirst) hs.slotTables
  · exact stateInv_answered (q := q) hs.csHigh hs.slotTables hq responseOk_illegalCmd

/-- The frame that the sequencer sends for the owner keeps the invariant (R119, R140, R195). -/
theorem stateInv_runFrame {s : State} {h : Nat} {j : Instr} (hs : StateInv s) (ho : s.owner = some h)
    (hf : currentFrame s = some j) : StateInv (runFrame j h s) := by
  have hq := hs.ownerSlot h ho
  obtain ⟨f, n1, n2, rx, ok, k, ht | ⟨st, hrow, -, ht⟩ | ⟨r, c, d, hr, ht⟩⟩ :=
    runFrame_leaves_cycled h hf <;> rw [ht]
  · exact stateInv_of_serving rfl ho hq (currentFrame_mem s j hf) hs.slotTables
  · exact stateInv_of_serving rfl ho hq hrow hs.slotTables
  · exact stateInv_answered rfl hs.slotTables hq hr

/-! ### The other agents' moves -/

/-- What a post that is enabled may count on (R190, R191, R26). -/
theorem mayPost_iff {n w h : Nat} {q : Request} {s : State} :
    mayPost n w h q s = true ↔
      h < n ∧ q.wfAt w = true ∧ slotGet s.pend h = none ∧ slotGet s.resp h = none := by
  simp [mayPost, and_assoc]

/-- A host's post keeps the invariant: the owner's slot is full, so it is another's that is filled. -/
theorem stateInv_post {s : State} (h : Nat) (q : Request) (hs : StateInv s) :
    StateInv (post Config.nHosts Config.lenW h q s) := by
  unfold post
  split
  · rename_i hmay
    obtain ⟨hh, hw, hp, hr⟩ := mayPost_iff.mp hmay
    have hslots : SlotTablesInv (s.fillPend h q).pend (s.fillPend h q).resp :=
      hs.slotTables.post hh hw hr
    cases ho : s.owner with
    | none => exact stateInv_of_free hs.csHigh ho (hs.ownerIdle.mp ho) hslots
    | some j =>
      have hj := hs.ownerSlot j ho
      have hjh : j ≠ h := by rintro rfl; simp [hp] at hj
      have hne : s.stage ≠ .idle := fun he => by simp [hs.ownerIdle.mpr he] at ho
      exact stateInv_of_serving hs.csHigh ho ((slotGet_slotPut_other s.pend h j q hjh).trans hj)
        (hs.stageInRow hne) hslots
  · exact hs

/-- A host's take keeps the invariant. -/
theorem stateInv_take {s : State} (h : Nat) (hs : StateInv s) : StateInv (take h s) := by
  unfold take
  split
  · exact hs
  · have hslots := hs.slotTables.take h
    exact { hs with
      respForm := hslots.respForm
      respHosts := hslots.respHosts
      oneOutstanding := hslots.oneOutstanding }

/-- A block reset leaves a free engine and empty slots (R39, R240). -/
theorem stateInv_blockReset (s : State) : StateInv (blockReset s) :=
  stateInv_of_free rfl rfl rfl .empty

/-- The invariant says nothing of the agenda. -/
theorem stateInv_setTurns {s : State} (rest : List Turn) (hs : StateInv s) : StateInv (s.setTurns rest) :=
  { hs with }

/-- Settles O47: every move of every agent keeps the invariant. -/
theorem stepKeepsTheStateInvariant : Obligations.StepKeepsTheStateInvariant := by
  intro s t hs hstep
  exact step_keeps StateInv s t
    (hturns := fun _ rest hp => stateInv_setTurns rest hp)
    (hgrant := fun _ _ _ hp _ ha => stateInv_grantTo hp ha)
    (hframe := fun _ _ _ hp ho hf => stateInv_runFrame hp ho hf)
    (hpost := fun _ h q hp => stateInv_post h q hp)
    (htake := fun _ h hp => stateInv_take h hp)
    (hreset := fun s _ => stateInv_blockReset s)
    hs hstep

end Sys2Proof.Safety
end

section
/-! Proofs for 10_state.md (R20, R22, R38), what every move leaves unchanged: the trace only grows, and the
frame of every instruction. -/

namespace Sys2Proof.Safety

open Sys2Proof.Machine

/-! ### The trace of a step -/

/-- `t` has the events of `s` and then some more, at most one of them a transaction. -/
def growsByOneTxn (s t : State) : Prop :=
  ∃ es, t.trace = s.trace ++ es ∧ (es.filter isTxn).length ≤ 1

theorem growsByOneTxn_of_trace_eq {s t : State} (ht : t.trace = s.trace) : growsByOneTxn s t :=
  ⟨[], by simp [ht]⟩

/-- A grant emits itself and, for a reserved code, the answer (R192, R194). -/
theorem grantTo_growsByOneTxn (wait : Bool) (h : Nat) (q : Request) (s : State) :
    growsByOneTxn s (grantTo wait h q s) := by
  rcases grantTo_cases wait h q s with ⟨st, -, he⟩ | ⟨-, he⟩ <;> rw [he]
  · exact ⟨[.grant h q], by simp, by simp [isTxn]⟩
  · exact ⟨[.grant h q, .resp h ⟨.error, .illegalCmd, []⟩], by simp [answered], by simp [isTxn]⟩

/-- A frame is one transaction and, at the end of the operation, the answer (R113, R195). -/
theorem runFrame_growsByOneTxn {s : State} {j : Instr} (h : Nat) (hf : currentFrame s = some j) :
    growsByOneTxn s (runFrame j h s) := by
  obtain ⟨f, n1, n2, rx, ok, k, ht | ⟨st, -, -, ht⟩ | ⟨r, c, d, -, ht⟩⟩ :=
    runFrame_leaves_cycled h hf <;> rw [ht]
  · exact ⟨[.txn h s.stage f.cmd f.data n1 n2 rx ok], rfl, le_rfl⟩
  · exact ⟨[.txn h s.stage f.cmd f.data n1 n2 rx ok], rfl, le_rfl⟩
  · exact ⟨[.txn h s.stage f.cmd f.data n1 n2 rx ok, .resp h ⟨r, c, d⟩],
      by simp [answered, cycled], le_rfl⟩

theorem engineStep_growsByOneTxn {s t : State} (he : engineStep s = .next t) : growsByOneTxn s t := by
  rcases engineStep_next s t he with ⟨-, -, rfl⟩ | ⟨-, h, q, -, rfl⟩ | ⟨-, h, j, -, hf, rfl⟩
  · exact growsByOneTxn_of_trace_eq rfl
  · exact grantTo_growsByOneTxn Config.wrsrWait h q s
  · exact runFrame_growsByOneTxn h hf

theorem post_trace (n w h : Nat) (q : Request) (s : State) : (post n w h q s).trace = s.trace := by
  unfold post
  split <;> rfl

theorem take_trace (h : Nat) (s : State) : (take h s).trace = s.trace := by
  unfold take
  split <;> rfl

/-- Settles O52: only the engine sends, and one transaction at most; a host emits nothing. -/
theorem traceOnlyGrows : Obligations.TraceOnlyGrows := by
  intro s t hs
  rcases step_next s t hs with ⟨rest, -, he⟩ | ⟨h, q, rest, -, rfl⟩ | ⟨h, rest, -, rfl⟩ | ⟨rest, -, rfl⟩
  · exact engineStep_growsByOneTxn (s := s.setTurns rest) he
  · exact growsByOneTxn_of_trace_eq (post_trace _ _ h q (s.setTurns rest))
  · exact growsByOneTxn_of_trace_eq (take_trace h (s.setTurns rest))
  · exact ⟨[.reset], rfl, by simp [isTxn]⟩

/-! ### The frame of an instruction -/

/-- What every instruction leaves as it was: the agenda, the events so far, the order of the oracle's
answers, and the slots of every host but `h`. -/
structure LeavesOthers (h : Nat) (s t : State) : Prop where
  turns : t.turns = s.turns
  trace : s.trace <+: t.trace
  draws : s.draws ≤ t.draws
  answers : t.answers = s.answers.drop (t.draws - s.draws)
  slots : ∀ j, j ≠ h → slotGet t.pend j = slotGet s.pend j ∧ slotGet t.resp j = slotGet s.resp j

/-- Answering host `h` leaves the others' slots (R195). -/
theorem LeavesOthers.answered {h : Nat} {s u : State} (hu : LeavesOthers h s u) (r : Result) (c : Cause)
    (d : List Byte) : LeavesOthers h s (answered h r c d u) where
  turns := hu.turns
  trace := hu.trace.trans (List.prefix_append _ _)
  draws := hu.draws
  answers := hu.answers
  slots j hj :=
    ⟨(slotGet_slotClear_other u.pend h j hj).trans (hu.slots j hj).1,
      (slotGet_slotPut_other u.resp h j ⟨r, c, d⟩ hj).trans (hu.slots j hj).2⟩

/-- One chip-select cycle touches no slot and uses the next answers in order (R113). -/
theorem leavesOthers_cycled (h : Nat) (f : Frame) (n1 : Nat) (n2 : Option Nat) (rx : List Byte)
    (ok : Bool) (k : Nat) (s : State) : LeavesOthers h s (cycled h f n1 n2 rx ok k s) where
  turns := rfl
  trace := List.prefix_append _ _
  draws := Nat.le_add_right _ _
  answers := by simp [cycled]
  slots _ _ := ⟨rfl, rfl⟩

/-- Latching and emitting a grant touches no slot and uses no answer (R192). -/
theorem leavesOthers_latch_emit (h : Nat) (q : Request) (e : Event) (s : State) :
    LeavesOthers h s ((s.latch h q).emit e) where
  turns := rfl
  trace := List.prefix_append _ _
  draws := Nat.le_refl _
  answers := by simp
  slots _ _ := ⟨rfl, rfl⟩

/-- `goto` changes the stage alone. -/
theorem LeavesOthers.goto {h : Nat} {s u : State} (hu : LeavesOthers h s u) (st : Stage) :
    LeavesOthers h s (u.goto st) :=
  { hu with }

theorem grantTo_leavesOthers (wait : Bool) (h : Nat) (q : Request) (s : State) :
    LeavesOthers h s (grantTo wait h q s) := by
  have hl := leavesOthers_latch_emit h q (.grant h q) s
  rcases grantTo_cases wait h q s with ⟨st, -, he⟩ | ⟨-, he⟩ <;> rw [he]
  · exact hl.goto st
  · exact hl.answered .error .illegalCmd []

/-- A grant makes no chip-select cycle (R192). -/
theorem grantTo_csN_draws (wait : Bool) (h : Nat) (q : Request) (s : State) :
    (grantTo wait h q s).csN = s.csN ∧ (grantTo wait h q s).draws = s.draws := by
  rcases grantTo_cases wait h q s with ⟨st, -, he⟩ | ⟨-, he⟩ <;> rw [he] <;> exact ⟨rfl, rfl⟩

/-- A frame ends with chip-select high and the same latched request, and leaves the other hosts' slots
(R22, R25, R119, R195). -/
theorem runFrame_frame {s : State} {j : Instr} (h : Nat) (hf : currentFrame s = some j) :
    LeavesOthers h s (runFrame j h s) ∧ (runFrame j h s).op = s.op ∧ (runFrame j h s).csN = 1 := by
  obtain ⟨f, n1, n2, rx, ok, k, ht | ⟨st, -, -, ht⟩ | ⟨r, c, d, -, ht⟩⟩ :=
    runFrame_leaves_cycled h hf <;> rw [ht]
  all_goals have hl := leavesOthers_cycled h f n1 n2 rx ok k s
  · exact ⟨hl, rfl, rfl⟩
  · exact ⟨hl.goto st, rfl, rfl⟩
  · exact ⟨hl.answered r c d, rfl, rfl⟩

/-- Settles O56: an instruction is a grant at IDLE, or else one frame of the owner. -/
theorem execLeavesTheRestUnchanged : Obligations.ExecLeavesTheRestUnchanged := by
  intro i s t he
  rcases exec_next i s t he with ⟨hi, h, q, ha, -, rfl⟩ | ⟨hi, h, j, ho, hf, rfl⟩
  · obtain ⟨hturns, htrace, hdraws, hanswers, hslots⟩ := grantTo_leavesOthers Config.wrsrWait h q s
    refine ⟨hturns, absurd hi, htrace, hdraws, hanswers, fun _ => grantTo_csN_draws _ h q s, absurd hi, ?_⟩
    intro j hne _
    exact hslots j (by rintro rfl; exact hne hi q ha)
  · obtain ⟨⟨hturns, htrace, hdraws, hanswers, hslots⟩, hop, hcs⟩ := runFrame_frame h hf
    refine ⟨hturns, fun _ => hop, htrace, hdraws, hanswers, fun he => absurd he hi, fun _ => hcs, ?_⟩
    intro j _ hne
    exact hslots j (by rintro rfl; exact hne hi ho)

end Sys2Proof.Safety
end

section
/-! Proofs for 10_state.md (R39), the values after a reset. -/

namespace Sys2Proof.Safety

open Sys2Proof.Machine

/-- Settles O1: each element is written by `blockReset`, and an empty table has empty slots only. -/
theorem resetLeavesTheResetValues : Obligations.ResetLeavesTheResetValues :=
  ⟨fun _ => ⟨rfl, rfl, rfl, fun _ => rfl, fun _ => rfl, rfl, rfl, rfl⟩,
    rfl, rfl, rfl, fun _ => rfl, fun _ => rfl, rfl⟩

theorem stateInv_reset : StateInv State.reset := stateInv_of_free rfl rfl rfl .empty

/-- The one event of the trace at reset is `Reset`, and no response is untaken. -/
theorem eventsInv_reset : EventsInv State.reset := by
  simp [EventsInv, State.reset, eventOk]

theorem ownershipInv_reset : OwnershipInv State.reset := ⟨rfl, fun _ => rfl⟩

/-- A trace of one `Reset` has no transaction to gate, and no operation is served. -/
theorem writeGateInv_reset : WriteGateInv State.reset :=
  ⟨⟨trivial, trivial⟩, fun hst => nomatch hst⟩

theorem busyGateInv_reset : BusyGateInv State.reset :=
  ⟨⟨trivial, trivial⟩, fun _ ho => nomatch ho⟩

/-- Settles O46, an invariant at a time. -/
theorem invariantsHoldAtReset : Obligations.InvariantsHoldAtReset :=
  ⟨stateInv_reset, eventsInv_reset, ownershipInv_reset, writeGateInv_reset, busyGateInv_reset⟩

end Sys2Proof.Safety
end

section
/-! Proofs for 10_state.md (R24, R25, R26), the latched request: what a step reads of it, and the two levels
of an operation's meaning. -/

namespace Sys2Proof.Machine

open Sys2Proof.Safety

/-! ### Another latched request -/

/-- The state with another latched request. -/
def State.setOp (s : State) (q : Request) : State := { s with op := q }

/-- No answer of the oracle depends on the latched request. -/
theorem dataPhase_setOp (h : Nat) (f : Frame) (n1 : Nat) (s : State) (q : Request) :
    dataPhase h f n1 (s.setOp q) = Prod.map id (State.setOp · q) (dataPhase h f n1 s) := by
  unfold dataPhase
  cases f.data with
  | noData => rfl
  | tx ds =>
    simp only [apply_ite (Prod.map id (State.setOp · q))]
    rfl
  | rx k =>
    simp only [apply_ite (Prod.map id (State.setOp · q))]
    rfl

/-- A transaction does not read the latched request. -/
theorem xfer_setOp (h : Nat) (f : Frame) (s : State) (q : Request) :
    xfer h f (s.setOp q) = ((xfer h f s).1, (xfer h f s).2.setOp q) := by
  change _ = Prod.map id (State.setOp · q) (xfer h f s)
  simp only [xfer, apply_ite (Prod.map id (State.setOp · q)), ← dataPhase_setOp]
  rfl

/-- The stage advance reads of the latched request only which operation it selects. -/
theorem advance_setOp (h : Nat) (rdata : List Byte) (s : State) (q : Request)
    (hq : decodeRequest q = currentOp s) : advance h rdata (s.setOp q) = (advance h rdata s).setOp q := by
  have hop : currentOp (s.setOp q) = currentOp s := hq
  unfold advance
  rw [hop, show (s.setOp q).stage = s.stage from rfl]
  split <;> rfl

/-- What a step that reads the selected operation alone answers under another latched request. -/
def ReadsOperationOnly (f : State → State) : Prop :=
  ∀ (s : State) (q : Request), decodeRequest q = currentOp s → f (s.setOp q) = (f s).setOp q

theorem busyDecide_readsOperationOnly (h : Nat) (b : Byte) : ReadsOperationOnly (busyDecide h b) := by
  intro s q hq
  unfold busyDecide
  split
  · rfl
  · exact advance_setOp h [] s q hq

theorem wgDecide_readsOperationOnly (h : Nat) (b : Byte) : ReadsOperationOnly (wgDecide h b) := by
  intro s q hq
  unfold wgDecide
  split
  · exact advance_setOp h [] s q hq
  · rfl

/-- A transaction keeps the selected operation. -/
theorem currentOp_xfer (h : Nat) (f : Frame) (s : State) : currentOp (xfer h f s).2 = currentOp s :=
  congrArg decodeRequest (xfer_keeps h f s).1

theorem gatePoll_readsOperationOnly (pol : GatePolicy) (decideOn : Nat → Byte → State → State) (h : Nat)
    (hd : ∀ b, ReadsOperationOnly (decideOn h b)) : ReadsOperationOnly (gatePoll pol decideOn h) := by
  intro s q hq
  have hop : decodeRequest q = currentOp (xfer h frameRdsr1 s).2 := hq.trans (currentOp_xfer ..).symm
  simp only [gatePoll, xfer_setOp]
  split
  · exact hd _ _ q hop
  · rfl
  · exact hd _ (drawByte (xfer h frameRdsr1 s).2).2 q hop

theorem wgEnable_readsOperationOnly (pol : GatePolicy) (h : Nat) : ReadsOperationOnly (wgEnable pol h) := by
  intro s q _
  simp only [wgEnable, xfer_setOp]
  split <;> rfl

theorem frameStep_readsOperationOnly (h : Nat) (f : Frame) : ReadsOperationOnly (frameStep h f) := by
  intro s q hq
  simp only [frameStep, xfer_setOp]
  split
  · rfl
  · exact advance_setOp h _ _ q (hq.trans (currentOp_xfer ..).symm)

theorem initIdentity_readsOperationOnly (h : Nat) : ReadsOperationOnly (initIdentity h) := by
  intro s q _
  simp only [initIdentity, xfer_setOp]
  split
  · rfl
  · split <;> rfl

/-- The frame sent depends on the latched request through the selected operation alone. -/
theorem currentFrame_setOp (s : State) (q : Request) (hq : decodeRequest q = currentOp s) :
    currentFrame (s.setOp q) = currentFrame s := by
  have hop : currentOp (s.setOp q) = currentOp s := hq
  simp only [currentFrame, hop]
  rfl

theorem runFrame_readsOperationOnly (j : Instr) (h : Nat) : ReadsOperationOnly (runFrame j h) := by
  intro s q hq
  have hop : currentOp (s.setOp q) = currentOp s := hq
  have hst : (s.setOp q).stage = s.stage := rfl
  unfold runFrame
  rw [hop, hst]
  split
  · split
    · exact wgEnable_readsOperationOnly _ h s q hq
    · exact frameStep_readsOperationOnly h _ s q hq
  · split
    · exact frameStep_readsOperationOnly h _ s q hq
    · split
      · exact gatePoll_readsOperationOnly _ _ h (wgDecide_readsOperationOnly h) s q hq
      · exact gatePoll_readsOperationOnly _ _ h (busyDecide_readsOperationOnly h) s q hq
  · split
    · exact initIdentity_readsOperationOnly h s q hq
    · exact frameStep_readsOperationOnly h _ s q hq
  · split
    · exact frameStep_readsOperationOnly h _ s q hq
    · rfl

/-- After the grant the engine's step is the owner's frame. -/
theorem engineStep_frame {s : State} {h : Nat} {j : Instr} (ho : s.owner = some h)
    (hf : currentFrame s = some j) : engineStep s = .next (runFrame j h s) := by
  have hfetch := (fetch_of_stage_ne_idle (currentFrame_idle s j hf)).trans hf
  rw [engineStep_of_fetch hfetch, exec_wire j s h ho hf (currentFrame_wire s j hf)]

/-- Settles O41: the owner's frame reads of the latched request only which operation it selects. -/
theorem unreadRequestFieldsHaveNoEffect : Obligations.UnreadRequestFieldsHaveNoEffect := by
  intro s t q hi hq he
  rcases engineStep_next s t he with ⟨hidle, -⟩ | ⟨hidle, -⟩ | ⟨-, h, j, ho, hf, rfl⟩
  · exact absurd hidle hi
  · exact absurd hidle hi
  · calc engineStep (s.setOp q)
        = .next (runFrame j h (s.setOp q)) := engineStep_frame ho ((currentFrame_setOp s q hq).trans hf)
      _ = .next ((runFrame j h s).setOp q) := by rw [runFrame_readsOperationOnly j h s q hq]

/-! ### A step at IDLE -/

/-- A request selects a host operation or a reserved code, never a wire frame (R97, R99). -/
theorem isWire_decodeRequest (q : Request) : isWire (decodeRequest q) = false := by
  unfold decodeRequest
  split <;> rfl

/-- At IDLE a host operation's meaning is the grant of the request handed over (R192). -/
theorem exec_of_arbitrate {s : State} {h : Nat} {q : Request} (hi : s.stage = .idle)
    (ha : arbitrate s = some (h, q)) :
    exec (decodeRequest q) s = .next (grantTo Config.wrsrWait h q s) := by
  obtain ⟨run, hrun, -⟩ := exec_host (decodeRequest q) s (isWire_decodeRequest q)
  simp [hrun, operation, hi, grant, ha]

/-- At IDLE the engine grants the request that the arbiter hands over (R192). -/
theorem engineStep_grant {s : State} {h : Nat} {q : Request} (hi : s.stage = .idle)
    (ha : arbitrate s = some (h, q)) : engineStep s = .next (grantTo Config.wrsrWait h q s) :=
  (engineStep_of_fetch (fetch_of_arbitrate hi ha)).trans (exec_of_arbitrate hi ha)

/-- At IDLE with nothing pending the engine waits. -/
theorem engineStep_wait {s : State} (hi : s.stage = .idle) (ha : arbitrate s = none) :
    engineStep s = .next s := by
  simp [engineStep, fetch, hi, ha]

theorem post_setOp (n w h : Nat) (r : Request) (s : State) (q : Request) :
    post n w h r (s.setOp q) = (post n w h r s).setOp q :=
  (apply_ite (State.setOp · q) (mayPost n w h r s = true) (s.fillPend h r) s).symm

theorem take_setOp (h : Nat) (s : State) (q : Request) : take h (s.setOp q) = (take h s).setOp q := by
  unfold take
  rw [show taken h (s.setOp q) = taken h s from rfl]
  split <;> rfl

/-- No turn at IDLE reads the latched request: a grant overwrites it, any other turn keeps it. -/
theorem turnStep_idle_setOp (turn : Turn) (s : State) (q : Request) (hi : s.stage = .idle) :
    ∃ t u, turnStep turn s = .next t ∧ turnStep turn (s.setOp q) = .next u ∧ (u = t ∨ u = t.setOp q) := by
  cases turn with
  | engine =>
    cases ha : arbitrate s with
    | none => exact ⟨_, _, engineStep_wait hi ha, engineStep_wait (s := s.setOp q) hi ha, .inr rfl⟩
    | some hr =>
      exact ⟨_, _, engineStep_grant hi ha, engineStep_grant (s := s.setOp q) hi ha, .inl rfl⟩
  | post h r => exact ⟨_, _, rfl, rfl, .inr (post_setOp _ _ h r s q)⟩
  | take h => exact ⟨_, _, rfl, rfl, .inr (take_setOp h s q)⟩
  | reset => exact ⟨_, _, rfl, rfl, .inr rfl⟩

/-- Settles O54, for the turn that the agenda names. -/
theorem idleStepDoesNotReadTheLatchedRequest : Obligations.IdleStepDoesNotReadTheLatchedRequest := by
  intro s q hi
  have hturn : ∃ turn s', s'.stage = .idle ∧ step s = turnStep turn s' ∧
      step (s.setOp q) = turnStep turn (s'.setOp q) := by
    cases hn : s.turns with
    | nil => exact ⟨.engine, s, hi, step_of_turns_nil hn, step_of_turns_nil (s := s.setOp q) hn⟩
    | cons turn rest =>
      exact ⟨turn, s.setTurns rest, hi, step_of_turns_cons hn, step_of_turns_cons (s := s.setOp q) hn⟩
  obtain ⟨turn, s', hi', hs, hsq⟩ := hturn
  obtain ⟨t, u, ht, hu, htu⟩ := turnStep_idle_setOp turn s' q hi'
  refine ⟨t, u, hs.trans ht, hsq.trans hu, ?_⟩
  rcases htu with rfl | rfl <;> rfl

/-! ### The two levels of an operation's meaning -/

theorem stage_mem_ite {c : Prop} [Decidable c] (st : Stage) (row row' : List Stage) :
    (st ∈ if c then row else row') ↔ if c then st ∈ row else st ∈ row' := by
  split <;> rfl

/-- The meaning of the operation being served is that of the frame its stage sends: at each stage of each
row (R140) both are the same frame of the state. -/
theorem exec_currentOp {s : State} {j : Instr} (hf : currentFrame s = some j) :
    exec (currentOp s) s = exec j s := by
  have hi := currentFrame_idle s j hf
  have hm := currentFrame_mem s j hf
  simp only [currentFrame, stageFrame, if_pos hm] at hf
  generalize hc : currentOp s = i at hm hf ⊢
  cases hst : s.stage <;> rw [hst] at hm hf
  case idle => exact absurd hst hi
  all_goals
    cases i <;> simp [stageRow, stage_mem_ite] at hm
    all_goals
      obtain rfl := Option.some.inj hf
      simp [exec, execIdentify, execRead, execProgram, execEraseSector, execEraseChip, execWriteSr,
        execWriteEnable, execWriteDisable, execReadSr1, execReadSr2, execInit, operation, *]

/-- Settles O55, for the operation that the latched request selects. -/
theorem operationStepIsItsFrameStep : Obligations.OperationStepIsItsFrameStep := by
  intro s j hi hf
  exact ⟨exec_currentOp hf, engineStep_of_fetch ((fetch_of_stage_ne_idle hi).trans hf)⟩

end Sys2Proof.Machine
end

section
/-! Proofs for 20_memory.md (R68), the bytes that each operation moves. -/

namespace Sys2Proof.Machine

@[simp] theorem addrBytes_length (a : Addr) : (addrBytes a).length = 3 := rfl

/-- Off the `FRAME` stage a poll stage sends RDSR1, and any other stage a frame of one opcode byte: WREN in
the write-gate, RSTEN and RST in INIT (R119, R140). -/
theorem stageFrame_of_ne_frame {wait : Bool} {i j : Instr} {st : Stage} (hst : st ≠ .frame)
    (hj : stageFrame wait i st = some j) :
    ((st = .preBg ∨ st = .wgPoll ∨ st = .postBg) ∧ j = .rdsr1) ∨
      (st = .wgWren ∧ j = .wren) ∨ (st = .rsten ∧ j = .rsten) ∨ (st = .rst ∧ j = .rst) := by
  unfold stageFrame at hj
  split at hj
  · cases st with
    | idle => cases hj
    | frame => exact absurd rfl hst
    | preBg | wgPoll | postBg | wgWren | rsten | rst => cases hj; simp
  · cases hj

/-- Settles O43: an operation's own frame by the operation, a frame off `FRAME` by its stage. -/
theorem bytesMovedByEachOperation : Obligations.BytesMovedByEachOperation := by
  refine ⟨?_, ?_⟩
  · intro i j f hown hf
    cases i with
    | read | program | eraseSector =>
      cases hown; cases hf
      simp [bytesSent, bytesReceived, frameRead, framePp, frameSe]
    | identify | eraseChip | writeSr | writeEnable | writeDisable | readSr1 | readSr2 | init =>
      cases hown; cases hf; rfl
    | _ => cases hown
  · intro wait i j st f hst hj hf
    obtain ⟨hpoll, rfl⟩ | ⟨rfl, rfl⟩ | ⟨rfl, rfl⟩ | ⟨rfl, rfl⟩ := stageFrame_of_ne_frame hst hj
    · cases hf
      exact (if_pos hpoll).symm
    all_goals cases hf; rfl

end Sys2Proof.Machine
end

section
/-! Proofs for 30_encoding.md (R62, R82, R83), operand assembly: the address bytes both ways, and the sector
address. -/

namespace Sys2Proof.Machine

/-! ### Address bytes -/

/-- A reader of the three address bytes gets the address back (R82). -/
theorem addrOfBytes_extract (a : Addr) :
    addrOfBytes (a.extractLsb' 16 8) (a.extractLsb' 8 8) (a.extractLsb' 0 8) = a := by
  have hhigh : a.extractLsb' 16 8 ++ a.extractLsb' 8 8 = a.extractLsb' 8 16 :=
    BitVec.extractLsb'_append_extractLsb'_eq_extractLsb' rfl
  have hall : a.extractLsb' 8 16 ++ a.extractLsb' 0 8 = a.extractLsb' 0 24 :=
    BitVec.extractLsb'_append_extractLsb'_eq_extractLsb' rfl
  rw [addrOfBytes, hhigh, hall, BitVec.extractLsb'_eq_self]

/-- The address read from three bytes has these address bytes (R82). -/
theorem addrBytes_addrOfBytes (a2 a1 a0 : Byte) :
    addrBytes (addrOfBytes a2 a1 a0) = [a2, a1, a0] := by
  have h2 : (a2 ++ a1 ++ a0).extractLsb' 16 8 = a2 := by
    rw [BitVec.extractLsb'_append_eq_of_le (by decide)]
    exact BitVec.extractLsb'_append_eq_left
  have h1 : (a2 ++ a1 ++ a0).extractLsb' 8 8 = a1 := by
    rw [BitVec.extractLsb'_append_eq_of_le (by decide)]
    exact BitVec.extractLsb'_append_eq_right
  have h0 : (a2 ++ a1 ++ a0).extractLsb' 0 8 = a0 := BitVec.extractLsb'_append_eq_right
  simp only [addrBytes, addrOfBytes, h2, h1, h0]

/-- Settles O38: the frames of READ, PROGRAM and ERASE_SECTOR, with the address each of them carries. -/
theorem addressBytesMostSignificantFirst : Obligations.AddressBytesMostSignificantFirst :=
  ⟨fun _ => rfl, fun _ _ => ⟨rfl, rfl⟩, fun _ _ => ⟨rfl, rfl⟩, fun _ => ⟨rfl, rfl⟩⟩

/-! ### The sector address -/

/-- The sector address is a product of naturals, truncated to 24 bits: the 28 bits of R83 hold it whole. -/
theorem sectorAddr_toNat (k : Sector) : (sectorAddr k).toNat = (k.toNat * 4096) % 2 ^ 24 := by
  simp [sectorAddr, sectorSize]

/-- The sector address carries bits 11 to 0 of the sector number above twelve zeros (R83). -/
theorem addrBytes_sectorAddr (k : Sector) :
    addrBytes (sectorAddr k) = [k.extractLsb' 4 8, k.extractLsb' 0 8 <<< 4, 0x00] := by
  have h2 : (sectorAddr k).extractLsb' 16 8 = k.extractLsb' 4 8 := by
    apply BitVec.eq_of_toNat_eq
    simp only [BitVec.extractLsb'_toNat, sectorAddr_toNat, Nat.shiftRight_eq_div_pow]
    omega
  have h1 : (sectorAddr k).extractLsb' 8 8 = k.extractLsb' 0 8 <<< 4 := by
    apply BitVec.eq_of_toNat_eq
    simp only [BitVec.extractLsb'_toNat, BitVec.toNat_shiftLeft, sectorAddr_toNat,
      Nat.shiftRight_eq_div_pow, Nat.shiftLeft_eq]
    omega
  have h0 : (sectorAddr k).extractLsb' 0 8 = 0x00 := by
    apply BitVec.eq_of_toNat_eq
    simp only [BitVec.extractLsb'_toNat, sectorAddr_toNat, Nat.shiftRight_eq_div_pow,
      BitVec.ofNat_eq_ofNat, BitVec.toNat_ofNat]
    omega
  rw [addrBytes, h2, h1, h0]

/-- Only the sector number modulo 4096 tells in the sector address (R83). -/
theorem sectorAddr_congr {j k : Sector} (hjk : j.toNat % 4096 = k.toNat % 4096) :
    sectorAddr j = sectorAddr k := by
  apply BitVec.eq_of_toNat_eq
  rw [sectorAddr_toNat, sectorAddr_toNat]
  omega

/-- Settles O39: the value of the sector address, its bytes, and its aliasing. -/
theorem sectorAddressIsTruncated : Obligations.SectorAddressIsTruncated :=
  ⟨sectorAddr_toNat, addrBytes_sectorAddr, fun _ _ hjk => sectorAddr_congr hjk⟩

end Sys2Proof.Machine
end

section
/-! Proofs for 30_encoding.md (R80 to R100), decoder and encoder: requests, frames, and the cycle that a
reader of the wire sees. -/

namespace Sys2Proof

open Sys2Proof.Machine Sys2Proof.Laws

/-! ### Requests and frames -/

/-- Settles O40, a code at a time. -/
theorem commandCodesSelectTheOperations : Obligations.CommandCodesSelectTheOperations := by
  intro q
  and_intros <;>
    · intro hc
      rw [decodeRequest, hc]
      rfl

/-- A host request decodes to what it encodes (R97, R99). -/
theorem decodeRequest_of_encode {i : Instr} {q : Request} (hq : encode i = .request q) :
    decodeRequest q = i := by
  cases i with
  | wren | wrdi | rdsr1 | rdsr2 | wrsr | readData | pp | se | ce | rsten | rst | rdid => cases hq
  | _ => cases hq; rfl

@[simp] theorem decodeFrame_frameRead (a : Addr) (n : Nat) :
    decodeFrame (frameRead a n) = .ok (.readData a n) :=
  congrArg (fun b => Except.ok (Instr.readData b n)) (addrOfBytes_extract a)

@[simp] theorem decodeFrame_framePp (a : Addr) (ds : List Byte) :
    decodeFrame (framePp a ds) = .ok (.pp a ds) :=
  congrArg (fun b => Except.ok (Instr.pp b ds)) (addrOfBytes_extract a)

@[simp] theorem decodeFrame_frameSe (a : Addr) : decodeFrame (frameSe a) = .ok (.se a) :=
  congrArg (fun b => Except.ok (Instr.se b)) (addrOfBytes_extract a)

/-- A wire frame decodes to what it encodes, whatever its operands are (R81). -/
theorem decodeFrame_of_encode {i : Instr} {f : Frame} (hf : encode i = .frame f) :
    decodeFrame f = .ok i := by
  cases i with
  | readData a n => cases hf; exact decodeFrame_frameRead a n
  | pp a ds => cases hf; exact decodeFrame_framePp a ds
  | se a => cases hf; exact decodeFrame_frameSe a
  | wren | wrdi | rdsr1 | rdsr2 | wrsr | ce | rsten | rst | rdid => cases hf; rfl
  | _ => cases hf

/-- Settles O35, for each of the two kinds of code. -/
theorem decodeEncodeGivesTheInstruction : Obligations.DecodeEncodeGivesTheInstruction := by
  intro i _
  cases he : encode i with
  | request q => exact congrArg Except.ok (decodeRequest_of_encode he)
  | frame f => exact decodeFrame_of_encode he

/-- A frame that decodes is the encoding of what it decodes to: each row of the decoder's table fixes the
opcode and the data phase, and the address bytes are those of the address read (R80, R81). -/
theorem encode_of_decodeFrame {f : Frame} {i : Instr} (hi : decodeFrame f = .ok i) :
    encode i = .frame f := by
  obtain ⟨cmd, data⟩ := f
  cases cmd with
  | nil => cases hi
  | cons op args =>
    simp only [decodeFrame] at hi
    split at hi
    case h_13 => split at hi <;> cases hi
    all_goals
      rename_i hop
      obtain rfl := Except.ok.inj hi
      simp [encode, frameWren, frameWrdi, frameRdsr1, frameRdsr2, frameWrsr, frameRead, framePp, frameSe,
        frameCe, frameRsten, frameRst, frameRdid, addrBytes_addrOfBytes, ← BitVec.toNat_inj, hop]

/-- Settles O37, a row of the decoder's table at a time. -/
theorem onlyEncodedFramesDecode : Obligations.OnlyEncodedFramesDecode :=
  fun _ _ hi => encode_of_decodeFrame hi

/-- Settles O42: each of the twelve frames by its opcode. -/
theorem mutatingFramesAreFour : Obligations.MutatingFramesAreFour := by
  intro i f hf
  cases i with
  | wrsr | pp | se | ce => cases hf; simp [mutatingCmd, frameWrsr, framePp, frameSe, frameCe]
  | wren | wrdi | rdsr1 | rdsr2 | readData | rsten | rst | rdid =>
    cases hf
    simp [mutatingCmd, frameWren, frameWrdi, frameRdsr1, frameRdsr2, frameRead, frameRsten, frameRst,
      frameRdid]
  | _ => cases hf

/-! ### A reader of the wire -/

/-- Every encoding has the form that the laws per instruction state (R26, R81). -/
theorem encodedForm (i : Instr) : EncodedForm.Statement i := by
  cases i with
  | identify => exact EncodedForm.identify
  | read a n => exact EncodedForm.read a n
  | program a ds => exact EncodedForm.program a ds
  | eraseSector k => exact EncodedForm.eraseSector k
  | eraseChip => exact EncodedForm.eraseChip
  | writeSr v1 v2 => exact EncodedForm.writeSr v1 v2
  | writeEnable => exact EncodedForm.writeEnable
  | writeDisable => exact EncodedForm.writeDisable
  | readSr1 => exact EncodedForm.readSr1
  | readSr2 => exact EncodedForm.readSr2
  | init => exact EncodedForm.init
  | reserved0 => exact EncodedForm.reserved0
  | reservedC => exact EncodedForm.reservedC
  | reservedD => exact EncodedForm.reservedD
  | reservedE => exact EncodedForm.reservedE
  | reservedF => exact EncodedForm.reservedF
  | wren => exact EncodedForm.wren
  | wrdi => exact EncodedForm.wrdi
  | rdsr1 => exact EncodedForm.rdsr1
  | rdsr2 => exact EncodedForm.rdsr2
  | wrsr d0 d1 => exact EncodedForm.wrsr d0 d1
  | readData a n => exact EncodedForm.readData a n
  | pp a ds => exact EncodedForm.pp a ds
  | se a => exact EncodedForm.se a
  | ce => exact EncodedForm.ce
  | rsten => exact EncodedForm.rsten
  | rst => exact EncodedForm.rst
  | rdid => exact EncodedForm.rdid

/-- Byte 0 tells where the phases of a cycle end: a frame of its opcode's format is delimited as it was
sent, whatever the fill byte is (R81, R100). -/
theorem delimitCycle_cycleBytes {op : Byte} {args : List Byte} {data : Data} {fmt : Format} (fill : Byte)
    (hop : formatOf op = some fmt) (hfmt : hasFormat fmt ⟨op :: args, data⟩) :
    delimitCycle (cycleBytes fill ⟨op :: args, data⟩) = .ok ⟨op :: args, data⟩ := by
  cases fmt with
  | wOp | wOpRx1 | wOpRx3 =>
    obtain ⟨hlen, rfl⟩ := hfmt
    obtain rfl : args = [] := by simpa using hlen
    simp [cycleBytes, delimitCycle, hop]
  | wOpTx2 =>
    obtain ⟨hlen, d0, d1, rfl⟩ := hfmt
    obtain rfl : args = [] := by simpa using hlen
    simp [cycleBytes, delimitCycle, hop]
  | wOpA =>
    obtain ⟨hlen, rfl⟩ := hfmt
    have hargs : args.length = 3 := by simpa using hlen
    simp [cycleBytes, delimitCycle, hop, hargs]
  | wOpARxN =>
    obtain ⟨hlen, n, rfl⟩ := hfmt
    have hargs : args.length = 3 := by simpa using hlen
    simp [cycleBytes, delimitCycle, hop, hargs]
  | wOpATxN =>
    obtain ⟨hlen, ds, rfl⟩ := hfmt
    have hargs : args.length = 3 := by simpa using hlen
    simp [cycleBytes, delimitCycle, hop, hargs]

/-- Settles O36: the reader delimits the cycle by the format of the encoding, and the frame decodes. -/
theorem wireReaderRecoversTheFrame : Obligations.WireReaderRecoversTheFrame := by
  intro i f fill hw hf
  have hform := encodedForm i hw
  rw [hf] at hform
  obtain ⟨op, args, fmt, hcmd, hop, hfmt⟩ := hform
  obtain ⟨cmd, data⟩ := f
  obtain rfl : cmd = op :: args := hcmd
  rw [decodeCycle, delimitCycle_cycleBytes fill hop hfmt]
  exact decodeFrame_of_encode hf

/-- Settles O44: the model evaluates each of the words. -/
theorem writtenWordsDecode : Obligations.WrittenWordsDecode :=
  ⟨rfl, rfl, rfl, rfl, rfl, rfl, rfl, rfl, rfl⟩

end Sys2Proof
end

section
/-! Proofs for 30_encoding.md (R84 to R95), which operation and stage sends each frame. -/

namespace Sys2Proof.Machine

/-- The frame of an operation's own `FRAME` stage, with the operation's operands (R142 to R152, R182). -/
theorem ownFrame_eq_some_iff {i j : Instr} : ownFrame i = some j ↔
    (i = .writeEnable ∧ j = .wren) ∨ (i = .writeDisable ∧ j = .wrdi) ∨
    (i = .readSr1 ∧ j = .rdsr1) ∨ (i = .readSr2 ∧ j = .rdsr2) ∨
    ((i = .identify ∨ i = .init) ∧ j = .rdid) ∨ (i = .eraseChip ∧ j = .ce) ∨
    (∃ v1 v2, i = .writeSr v1 v2 ∧ j = .wrsr v1 v2) ∨
    (∃ a n, i = .read a n ∧ j = .readData a n) ∨
    (∃ a ds, i = .program a ds ∧ j = .pp a ds) ∨
    (∃ k, i = .eraseSector k ∧ j = .se (sectorAddr k)) := by
  cases i <;> simp [ownFrame, eq_comm]

/-- A stage sends a frame only for an operation that has the stage in its row (R140). -/
theorem stageFrame_eq_some_iff {wait : Bool} {i j : Instr} {st : Stage} :
    stageFrame wait i st = some j ↔ st ∈ stageRow wait i ∧
      ((st = .wgWren ∧ j = .wren) ∨
       ((st = .preBg ∨ st = .wgPoll ∨ st = .postBg) ∧ j = .rdsr1) ∨
       (st = .rsten ∧ j = .rsten) ∨ (st = .rst ∧ j = .rst) ∨
       (st = .frame ∧ ownFrame i = some j)) := by
  by_cases hm : st ∈ stageRow wait i
  · cases st <;> simp [stageFrame, hm, eq_comm]
  · simp [stageFrame, hm]

/-- Settles O45: the encodings as they stand, and the frame of a stage with the operation's own frame
written out. -/
theorem framesAreEmittedByTheirStages : Obligations.FramesAreEmittedByTheirStages := by
  refine ⟨fun d0 d1 a n ds => ?_, fun wait i j st => ?_⟩
  · exact ⟨rfl, rfl, rfl, rfl, rfl, rfl, rfl, rfl, rfl, rfl, rfl, rfl, rfl, rfl, rfl, rfl⟩
  · rw [stageFrame_eq_some_iff, ownFrame_eq_some_iff]

end Sys2Proof.Machine
end

section
/-! Proofs for 30_encoding.md (R80), the events that a step emits and the responses that it writes. -/

namespace Sys2Proof.Safety

open Sys2Proof.Machine

/-- An answer writes the response it emits (R195). -/
theorem eventsInv_answered {s : State} {h : Nat} {r : Result} {c : Cause} {d : List Byte}
    (hs : EventsInv s) (hr : responseOk ⟨r, c, d⟩) : EventsInv (answered h r c d s) := by
  obtain ⟨hevents, hresp⟩ := hs
  refine ⟨fun e he => ?_, fun p hp => ?_⟩
  · rcases List.mem_append.mp he with hold | hnew
    · exact hevents e hold
    · rw [List.mem_singleton.mp hnew]
      exact hr
  · rcases mem_slotPut s.resp h _ p hp with rfl | hold
    · exact hr
    · exact hresp p hold

/-- An event appended as the block emits them. -/
theorem eventsInv_emit {s : State} {e : Event} (hs : EventsInv s) (he : eventOk e) :
    EventsInv (s.emit e) := by
  obtain ⟨hevents, hresp⟩ := hs
  refine ⟨fun e' he' => ?_, hresp⟩
  rcases List.mem_append.mp he' with hold | hnew
  · exact hevents e' hold
  · rw [List.mem_singleton.mp hnew]
    exact he

/-- A transaction of a frame that decodes, in a stage other than IDLE, emits an event with the counts and
bytes that R113 and R117 give it. -/
theorem eventsInv_xfer {s : State} {f : Frame} {j : Instr} (h : Nat) (hs : EventsInv s)
    (hf : decodeFrame f = .ok j) (hst : s.stage ≠ .idle) : EventsInv (xfer h f s).2 := by
  obtain ⟨n1, n2, rx, ok, k, hx, hok, hlen, hn2⟩ := xfer_cases h f s
  have hevent : eventOk (.txn h s.stage f.cmd f.data n1 n2 rx ok) := ⟨⟨j, hf⟩, hst, hok, hlen, hn2⟩
  rw [hx]
  exact eventsInv_emit hs hevent

/-- The grant step emits `Grant` and, for a reserved code, the answer (R192, R194). -/
theorem eventsInv_grantTo {s : State} (wait : Bool) (h : Nat) (q : Request) (hs : EventsInv s) :
    EventsInv (grantTo wait h q s) := by
  have hgrant : EventsInv ((s.latch h q).emit (.grant h q)) := eventsInv_emit (s := s.latch h q) hs trivial
  rcases grantTo_cases wait h q s with ⟨st, -, he⟩ | ⟨-, he⟩ <;> rw [he]
  · exact hgrant
  · exact eventsInv_answered hgrant responseOk_illegalCmd

/-- The owner's frame emits its transaction and, at the end of the operation, the answer (R119, R195). -/
theorem eventsInv_runFrame {s : State} {j : Instr} (h : Nat) (hs : EventsInv s)
    (hf : currentFrame s = some j) : EventsInv (runFrame j h s) := by
  obtain ⟨f, u, hj, hu, hl⟩ := runFrame_leaves s j h hf
  have hx := eventsInv_xfer h hs (decodeFrame_of_encode hj) (currentFrame_idle s j hf)
  have hcycle : EventsInv u := by rcases hu with rfl | rfl <;> exact hx
  rcases hl with ht | ⟨st, -, -, ht⟩ | ⟨r, c, d, hr, ht⟩ <;> rw [ht]
  · exact hcycle
  · exact hcycle
  · exact eventsInv_answered hcycle hr

/-- A post touches neither events nor responses. -/
theorem eventsInv_post {s : State} (n w h : Nat) (q : Request) (hs : EventsInv s) :
    EventsInv (post n w h q s) := by
  unfold post
  split <;> exact hs

/-- A take only removes a response. -/
theorem eventsInv_take {s : State} (h : Nat) (hs : EventsInv s) : EventsInv (take h s) := by
  unfold take
  split
  · exact hs
  · obtain ⟨hevents, hresp⟩ := hs
    exact ⟨hevents, fun p hp => hresp p (mem_slotClear s.resp h p hp)⟩

/-- A block reset emits `Reset` and empties the slots (R39, R240). -/
theorem eventsInv_blockReset {s : State} (hs : EventsInv s) : EventsInv (blockReset s) :=
  ⟨(eventsInv_emit (e := .reset) hs trivial).1, fun _ hp => nomatch hp⟩

/-- Settles O48: every move of every agent keeps the invariant. -/
theorem stepEmitsOnlyTheSpecifiedEvents : Obligations.StepEmitsOnlyTheSpecifiedEvents := by
  intro s t hs hstep
  exact step_keeps EventsInv s t
    (hturns := fun _ _ hp => hp)
    (hgrant := fun _ h q hp _ _ => eventsInv_grantTo Config.wrsrWait h q hp)
    (hframe := fun _ h _ hp _ hf => eventsInv_runFrame h hp hf)
    (hpost := fun _ h q hp => eventsInv_post _ _ h q hp)
    (htake := fun _ h hp => eventsInv_take h hp)
    (hreset := fun _ hp => eventsInv_blockReset hp)
    hs hstep

end Sys2Proof.Safety
end

section
/-! Proofs for 40_transaction.md (R113 to R119), one transaction on every answer of the oracle, and the one
event that it and the step that sends a frame append. -/

namespace Sys2Proof.Safety

open Sys2Proof.Machine

/-! ### One transaction -/

/-- Settles O12: the command count first, then the frame's data phase, its length and its count. -/
theorem transactionFollowsTheCounts : Obligations.TransactionFollowsTheCounts := by
  intro h f s
  split
  next hn => exact xfer_cmd_mismatch h f s hn
  next hfull =>
    have hn := not_not.mp hfull
    split
    next hd => exact xfer_noData h f s hd hn
    next ds hd =>
      split_ifs with hds hm
      · exact xfer_tx_empty h f s (hds ▸ hd) hn
      · exact xfer_tx_ok h f ds s hd hds hn hm
      · exact xfer_tx_mismatch h f ds s hd hds hn hm
    next k hd =>
      split_ifs with hk hm
      · exact xfer_rx_empty h f s (hk ▸ hd) hn
      · exact xfer_rx_ok h f k s hd hk hn hm
      · exact xfer_rx_mismatch h f k s hd hk hn hm

/-- No transaction that failed has bytes (R113). -/
theorem txnBytes_of_not_txnOk {f : Frame} {s : State} (hok : txnOk f s = false) : txnBytes f s = [] := by
  simp [txnBytes, hok]

/-- How many of the oracle's answers transaction `f` uses: one for the command phase, and one for the data
phase when it makes a call (log entry 4). -/
def txnDraws (f : Frame) (s : State) : Nat := if (txnCount2 f s).isSome then 2 else 1

/-- A transaction in one equation, its counts, bytes and outcome as R117 names them. -/
theorem xfer_eq_cycled (h : Nat) (f : Frame) (s : State) :
    xfer h f s = (if txnOk f s then .ok (txnBytes f s) else .fail,
      cycled h f (sentCount f.cmd s) (txnCount2 f s) (txnBytes f s) (txnOk f s) (txnDraws f s) s) := by
  rw [transactionFollowsTheCounts h f s]
  unfold txnDraws txnBytes txnOk txnCount2
  by_cases hn : sentCount f.cmd s = f.cmd.length
  · cases hd : f.data with
    | noData => simp [hn]
    | tx ds =>
      by_cases hds : ds = []
      · simp [hn, hds]
      · by_cases hm : sentCount2 ds s = ds.length
        · simp [hn, hds, hm]
        · simp [hn, hds, hm, beq_false_of_ne hm, List.isEmpty_eq_false_iff.mpr hds]
    | rx k =>
      by_cases hk : k = 0
      · simp [hn, hk, gotBytes, answerBytes]
      · by_cases hm : gotCount k s = k
        · simp [hn, hk, hm]
        · simp [hn, hk, hm, beq_false_of_ne hk, beq_false_of_ne hm]
  · simp [hn, beq_false_of_ne hn]

/-- The one event of a transaction (R117). -/
theorem xfer_trace (h : Nat) (f : Frame) (s : State) :
    (xfer h f s).2.trace = s.trace ++ [txnEvent h f s] := by
  rw [xfer_eq_cycled]
  rfl

/-! ### The step that sends a frame -/

/-- After the transaction of a frame step come no events, or the owner's response (R195). -/
theorem leaves_trace {h : Nat} {u t : State} (hl : leaves h u t) :
    ∃ es, t.trace = u.trace ++ es ∧ ∀ e ∈ es, isTxn e = false := by
  rcases hl with rfl | ⟨st, -, -, rfl⟩ | ⟨r, c, d, -, rfl⟩
  · exact ⟨[], by simp, by simp⟩
  · exact ⟨[], by simp, by simp⟩
  · exact ⟨[.resp h ⟨r, c, d⟩], rfl, by simp [isTxn]⟩

/-- The owner's frame `f` appends its transaction's event, and no other transaction's (R119). -/
theorem runFrame_trace {s : State} {j : Instr} {f : Frame} (h : Nat) (hf : currentFrame s = some j)
    (hj : encode j = .frame f) :
    ∃ es, (runFrame j h s).trace = s.trace ++ txnEvent h f s :: es ∧ ∀ e ∈ es, isTxn e = false := by
  obtain ⟨f', u, hj', hu, hl⟩ := runFrame_leaves s j h hf
  obtain rfl : f' = f := Code.frame.inj (hj'.symm.trans hj)
  have hcycle : u.trace = s.trace ++ [txnEvent h f' s] := by
    rcases hu with rfl | rfl <;> exact xfer_trace h f' s
  obtain ⟨es, ht, hes⟩ := leaves_trace hl
  exact ⟨es, by simp [ht, hcycle], hes⟩

/-- Settles O13: the one event of a transaction, and of the frame that the sequencer sends. -/
theorem oneEventPerTransaction : Obligations.OneEventPerTransaction := by
  refine ⟨fun h f s => ⟨xfer_trace h f s, ?_, txnBytes_of_not_txnOk⟩, fun s j f h ho hf hj => ?_⟩
  · rw [xfer_eq_cycled]
  · obtain ⟨es, ht, hes⟩ := runFrame_trace h hf hj
    exact ⟨_, es, exec_wire j s h ho hf (currentFrame_wire s j hf), ht, hes⟩

end Sys2Proof.Safety
end

section
/-! Proofs for 40_transaction.md (R114, R119), what the wire shows: the bytes of one transaction between its
chip-select edges, and the select line along a trace. -/

namespace Sys2Proof.Machine

/-- A transaction shows its bytes between the two edges of chip-select (R114). -/
theorem wireOf_txn (fill : Byte) (h : Nat) (st : Stage) (cmd : List Byte) (d : Data) (n1 : Nat)
    (n2 : Option Nat) (rx : List Byte) (ok : Bool) :
    wireOf fill (.txn h st cmd d n1 n2 rx ok) =
      [WireAct.fall] ++ (if n1 = cmd.length then cmd ++ dataOnWire fill d else cmd).map WireAct.byte ++
        [.rise] := by
  by_cases hn : n1 = cmd.length <;> simp [wireOf, hn]

/-- Bytes pass while the chip is selected. -/
theorem selectLine_bytes (bs : List Byte) (rest : List WireAct) :
    selectLine true (bs.map WireAct.byte ++ rest) = selectLine true rest := by
  induction bs with
  | nil => rfl
  | cons b bs ih => exact ih

/-- A whole cycle begins and ends with the chip deselected. -/
theorem selectLine_cycle (bs : List Byte) (rest : List WireAct) :
    selectLine false ([WireAct.fall] ++ bs.map WireAct.byte ++ [.rise] ++ rest) = selectLine false rest := by
  have hbytes := selectLine_bytes bs (.rise :: rest)
  simpa [selectLine] using hbytes

/-- Every event begins and ends with the chip deselected: a transaction is a whole cycle, and the others
show nothing (R119). -/
theorem selectLine_wireOf (fill : Byte) (e : Event) (rest : List WireAct) :
    selectLine false (wireOf fill e ++ rest) = selectLine false rest := by
  cases e with
  | txn h st cmd d n1 n2 rx ok => rw [wireOf_txn, selectLine_cycle]
  | grant h q => rfl
  | resp h r => rfl
  | reset => rfl

/-- Along every trace the chip is selected and deselected in turn, and deselected at the end. -/
theorem selectLine_wireTrace (fill : Byte) (t : List Event) :
    selectLine false (wireTrace fill t) = some false := by
  induction t with
  | nil => rfl
  | cons e t ih => exact (selectLine_wireOf fill e (wireTrace fill t)).trans ih

/-- Settles O14: what a transaction shows, data phase by data phase, and the line over every trace. -/
theorem wireSelectsOncePerTransaction : Obligations.WireSelectsOncePerTransaction := by
  refine ⟨fun fill h st cmd n1 n2 rx ok ds k => ⟨fun hn => ⟨?_, ?_, ?_⟩, fun d hn => ?_⟩,
    selectLine_wireTrace⟩
  · simp [wireOf_txn, hn, dataOnWire]
  · simp [wireOf_txn, hn, dataOnWire]
  · simp [wireOf_txn, hn, dataOnWire]
  · simp [wireOf_txn, hn]

end Sys2Proof.Machine
end

section
/-! Proofs for 41_gates.md (R121 to R128), the busy-gate and the write-gate: the decisions, each gate's step on
every answer of the oracle, and its runs on listed answers with full counts. -/

namespace Sys2Proof.Safety

open Sys2Proof.Machine

/-! ### The gates' decisions -/

/-- The busy-gate decides on bit 0 (R121). -/
theorem busyDecide_eq (h : Nat) (b : Byte) (s : State) :
    busyDecide h b s = if b.getLsbD 0 then s else advance h [] s := rfl

/-- The write-gate decides on bit 1 (R124). -/
theorem wgDecide_eq (h : Nat) (b : Byte) (s : State) :
    wgDecide h b s = if b.getLsbD 1 then advance h [] s else s.goto .wgWren := rfl

/-- Settles O19: each decision is written in its one bit. -/
theorem gatesReadOneBitEach : Obligations.GatesReadOneBitEach := by
  intro b c h s
  refine ⟨fun hbit => ?_, fun hbit => ?_, fun hbit => ?_⟩
  · rw [busyDecide_eq, busyDecide_eq, hbit]
  · rw [wgDecide_eq, wgDecide_eq, hbit]
  · rw [wgDecide_eq, if_pos hbit]

/-- No row begins in the middle of its write-gate (R123, R140). -/
theorem firstStage_ne_wgPoll (wait : Bool) (i : Instr) : firstStage wait i ≠ some .wgPoll := by
  cases i <;> cases wait <;> simp [firstStage, stageRow]

/-- The write-gate's poll half comes after its enable half only (R123, R140). -/
theorem eq_wgWren_of_nextStage {wait : Bool} {i : Instr} {st : Stage}
    (hn : nextStage wait i st = some .wgPoll) : st = .wgWren := by
  cases i <;> cases wait <;> cases st <;> simp [nextStage, stageRow, entryAfter] at hn ⊢

/-- FRAME follows the write-gate in every row that has one (R124, R140). -/
theorem nextStage_wgPoll {wait : Bool} {i : Instr} (hm : Stage.wgPoll ∈ stageRow wait i) :
    nextStage wait i .wgPoll = some .frame := by
  cases i <;> cases wait <;> simp [stageRow] at hm <;> rfl

/-- A write-gate that proceeds goes to FRAME (R124). -/
theorem wgDecide_of_nextStage {s : State} (h : Nat) (b : Byte)
    (hn : nextStage Config.wrsrWait (currentOp s) s.stage = some .frame) :
    wgDecide h b s = { s with stage := if b.getLsbD 1 then .frame else .wgWren } := by
  rw [wgDecide_eq, advance, hn]
  split <;> rfl

/-! ### A gate step, by the outcome of its transaction -/

section

variable {h : Nat} {f : Frame} {s u : State} {onFail onFail' : State → State}
  {k k' : List Byte → State → State}

theorem gateThen_ok {rx : List Byte} (hx : xfer h f s = (.ok rx, u)) : gateThen h f s onFail k = k rx u := by
  simp only [gateThen, hx]

theorem gateThen_abort (hx : xfer h f s = (.fail, u)) (hp : Config.gateErrPolicy = .abort) :
    gateThen h f s onFail k = answered h .error .transaction [] u := by
  simp only [gateThen, hx, hp]

theorem gateThen_ignore (hx : xfer h f s = (.fail, u)) (hp : Config.gateErrPolicy = .ignore) :
    gateThen h f s onFail k = onFail u := by
  simp only [gateThen, hx, hp]

/-- How a gate step goes on matters only in the state that its transaction leaves. -/
theorem gateThen_congr (hfail : onFail (xfer h f s).2 = onFail' (xfer h f s).2)
    (hok : ∀ rx, k rx (xfer h f s).2 = k' rx (xfer h f s).2) :
    gateThen h f s onFail k = gateThen h f s onFail' k' := by
  unfold gateThen
  split
  · exact hok _
  · rfl
  · exact hfail

end

/-- A gate's poll is a gate step on RDSR1 (R121, R124, R126, R127). -/
theorem gatePoll_eq_gateThen (decideOn : Nat → Byte → State → State) (h : Nat) (s : State) :
    gatePoll Config.gateErrPolicy decideOn h s =
      gateThen h frameRdsr1 s (fun t => decideOn h (drawByte t).1 (drawByte t).2)
        (fun rx t => decideOn h (rx.headD 0) t) := by
  rcases gatePoll_cases Config.gateErrPolicy decideOn h s with ⟨rx, hx, he⟩ | ⟨hx, hp, he⟩ | ⟨hx, hp, he⟩
  · rw [he, gateThen_ok (Prod.ext hx rfl)]
  · rw [he, gateThen_abort (Prod.ext hx rfl) hp]
  · rw [he, gateThen_ignore (Prod.ext hx rfl) hp]

/-- The write-gate's enable half is a gate step on WREN, and a WREN that `IGNORE` lets fail is treated as sent
(R123, R126, R127). -/
theorem wgEnable_eq_gateThen (h : Nat) (s : State) :
    wgEnable Config.gateErrPolicy h s =
      gateThen h frameWren s (·.goto .wgPoll) (fun _ t => t.goto .wgPoll) := by
  rcases wgEnable_cases Config.gateErrPolicy h s with ⟨hx, hp, he⟩ | ⟨⟨rx, hx⟩ | hp, he⟩
  · rw [he, gateThen_abort (Prod.ext hx rfl) hp]
  · rw [he, gateThen_ok (Prod.ext hx rfl)]
  · cases hx : (xfer h frameWren s).1 with
    | ok rx => rw [he, gateThen_ok (Prod.ext hx rfl)]
    | fail => rw [he, gateThen_ignore (Prod.ext hx rfl) hp]

/-! ### One gate step of the owner -/

/-- In every gate's poll stage the sequencer sends RDSR1 (R121, R124). -/
theorem currentFrame_poll {s : State} (hst : s.stage = .preBg ∨ s.stage = .wgPoll ∨ s.stage = .postBg)
    (hm : s.stage ∈ stageRow Config.wrsrWait (currentOp s)) : currentFrame s = some .rdsr1 :=
  stageFrame_eq_some_iff.mpr ⟨hm, .inr (.inl ⟨hst, rfl⟩)⟩

/-- In the write-gate's enable stage the sequencer sends WREN (R123). -/
theorem currentFrame_enable {s : State} (hst : s.stage = .wgWren)
    (hm : s.stage ∈ stageRow Config.wrsrWait (currentOp s)) : currentFrame s = some .wren :=
  stageFrame_eq_some_iff.mpr ⟨hm, .inl ⟨hst, rfl⟩⟩

/-- RDSR1 in a busy-gate's stage is its poll (R121). -/
theorem runFrame_busyPoll {s : State} (h : Nat) (hst : s.stage = .preBg ∨ s.stage = .postBg) :
    runFrame .rdsr1 h s = busyPoll Config.gateErrPolicy h s := by
  rcases hst with hst | hst <;> simp [runFrame, hst]

/-- RDSR1 in the write-gate's poll stage is its poll (R124). -/
theorem runFrame_wgPoll {s : State} (h : Nat) (hst : s.stage = .wgPoll) :
    runFrame .rdsr1 h s = wgPoll Config.gateErrPolicy h s := by
  simp [runFrame, hst]

/-- WREN in the write-gate's enable stage is its enable half (R123). -/
theorem runFrame_wgEnable {s : State} (h : Nat) (hst : s.stage = .wgWren) :
    runFrame .wren h s = wgEnable Config.gateErrPolicy h s := if_pos hst

/-- Settles O16: the gate's poll as a gate step, its decision on bit 0. -/
theorem busyGatePollStep : Obligations.BusyGatePollStep := by
  intro s h ho hst hm
  have hf := currentFrame_poll (hst.imp_right .inr) hm
  rw [exec_wire .rdsr1 s h ho hf rfl, runFrame_busyPoll h hst, busyPoll, gatePoll_eq_gateThen]
  rfl

/-- Settles O17: no row has WG_POLL but after WG_WREN, where WREN is the enable half. -/
theorem writeGateEnableStep : Obligations.WriteGateEnableStep := by
  refine ⟨firstStage_ne_wgPoll, fun wait i st hn => eq_wgWren_of_nextStage hn, fun s h ho hst hm => ?_⟩
  have hf := currentFrame_enable hst hm
  rw [exec_wire .wren s h ho hf rfl, runFrame_wgEnable h hst, wgEnable_eq_gateThen]
  rfl

/-- Settles O18: the gate's poll as a gate step; its transaction, and the draw after it, keep the operation and
the stage, so that the write-gate proceeds to FRAME. -/
theorem writeGatePollStep : Obligations.WriteGatePollStep := by
  intro s h ho hst hm
  have hf := currentFrame_poll (.inr (.inl hst)) hm
  have hnext : nextStage Config.wrsrWait (currentOp (xfer h frameRdsr1 s).2) (xfer h frameRdsr1 s).2.stage =
      some .frame := by
    obtain ⟨-, hstage, -⟩ := xfer_keeps h frameRdsr1 s
    rw [currentOp_xfer, hstage, hst]
    exact nextStage_wgPoll (hst ▸ hm)
  rw [exec_wire .rdsr1 s h ho hf rfl, runFrame_wgPoll h hst, wgPoll, gatePoll_eq_gateThen]
  exact congrArg Host.Outcome.next (gateThen_congr (wgDecide_of_nextStage h _ hnext)
    fun rx => wgDecide_of_nextStage h _ hnext)

/-! ### Listed answers with full counts -/

/-- A step and then `k` more. -/
theorem steps_succ {s t : State} (k : Nat) (hs : step s = .next t) : steps (k + 1) s = steps k t := by
  simp only [steps, hs]

/-- The engine at a step boundary of the operation of host `h`, with nothing else on the agenda. -/
structure Serving (h : Nat) (s : State) : Prop where
  turns : s.turns = []
  csHigh : s.csN = 1
  owner : s.owner = some h
  inRow : s.stage ∈ stageRow Config.wrsrWait (currentOp s)

/-- The engine's step is the meaning of the frame that the sequencer sends. -/
theorem Serving.step_eq_exec {h : Nat} {s : State} {j : Instr} (hs : Serving h s)
    (hf : currentFrame s = some j) : step s = exec j s :=
  (step_of_turns_nil hs.turns).trans
    (engineStep_of_fetch ((fetch_of_stage_ne_idle (currentFrame_idle s j hf)).trans hf))

/-- The state after polls of host `h` that read `bs` with full counts, `rest` being the answers to come. -/
def polled (h : Nat) (bs : List Byte) (rest : List Answer) (s : State) : State :=
  { s with
    trace := s.trace ++ pollEvents h s.stage bs
    answers := rest
    draws := s.draws + 2 * bs.length }

/-- The state after rounds of the write-gate of host `h`, each a WREN and a poll, whose polls read `bs` with
full counts, `rest` being the answers to come. -/
def wgPolled (h : Nat) (bs : List Byte) (rest : List Answer) (s : State) : State :=
  { s with
    trace := s.trace ++ wgEvents h bs
    answers := rest
    draws := s.draws + 3 * bs.length }

theorem polled_nil {s : State} {rest : List Answer} (h : Nat) (ha : s.answers = rest) :
    polled h [] rest s = s := by
  simp [polled, pollEvents, ← ha]

theorem polled_append (h : Nat) (bs cs : List Byte) (rest rest' : List Answer) (s : State) :
    polled h cs rest' (polled h bs rest s) = polled h (bs ++ cs) rest' s := by
  simp [polled, pollEvents, Nat.mul_add, Nat.add_assoc]

theorem wgPolled_nil {s : State} {rest : List Answer} (h : Nat) (ha : s.answers = rest) :
    wgPolled h [] rest s = s := by
  simp [wgPolled, wgEvents, ← ha]

theorem wgPolled_append (h : Nat) (bs cs : List Byte) (rest rest' : List Answer) (s : State) :
    wgPolled h cs rest' (wgPolled h bs rest s) = wgPolled h (bs ++ cs) rest' s := by
  simp [wgPolled, wgEvents, Nat.mul_add, Nat.add_assoc]

theorem pollScript_append (bs cs : List Byte) : pollScript (bs ++ cs) = pollScript bs ++ pollScript cs :=
  List.flatMap_append

theorem wgScript_append (bs cs : List Byte) : wgScript (bs ++ cs) = wgScript bs ++ wgScript cs :=
  List.flatMap_append

/-- At a step boundary a cycle changes the trace and the oracle's fields alone (R119). -/
theorem cycled_of_csHigh {s : State} (hcs : s.csN = 1) (h : Nat) (f : Frame) (n1 : Nat) (n2 : Option Nat)
    (rx : List Byte) (ok : Bool) (k : Nat) :
    cycled h f n1 n2 rx ok k s =
      { s with
        trace := s.trace ++ [.txn h s.stage f.cmd f.data n1 n2 rx ok]
        answers := s.answers.drop k
        draws := s.draws + k } := by
  rw [cycled, ← hcs]

/-- A poll with full counts that reads `b` (R113). -/
theorem xfer_poll_listed {s : State} {b : Byte} {rest : List Answer} (h : Nat) (hcs : s.csN = 1)
    (ha : s.answers = pollScript [b] ++ rest) : xfer h frameRdsr1 s = (.ok [b], polled h [b] rest s) := by
  have hget (ask : Ask) : answerTo ask s.consume = ⟨1, [b]⟩ := answerTo_consume_listed ask s _ _ rest ha
  have hsent : sentCount frameRdsr1.cmd s = frameRdsr1.cmd.length :=
    congrArg Answer.count (answerTo_listed _ s _ _ ha)
  have hgot : gotCount 1 s = 1 := congrArg Answer.count (hget _)
  have hbytes : gotBytes 1 s = [b] := by simp [gotBytes, answerBytes, answerByte, hget]
  rw [xfer_rx_ok h frameRdsr1 1 s rfl one_ne_zero hsent hgot, hbytes, cycled_of_csHigh hcs, ha]
  rfl

/-- A WREN with a full count (R113). -/
theorem xfer_wren_listed {s : State} {rest : List Answer} (h : Nat) (hcs : s.csN = 1)
    (ha : s.answers = ⟨1, []⟩ :: rest) :
    xfer h frameWren s = (.ok [], { s with
      trace := s.trace ++ [.txn h s.stage [0x06] .noData 1 none [] true]
      answers := rest
      draws := s.draws + 1 }) := by
  have hsent : sentCount frameWren.cmd s = frameWren.cmd.length :=
    congrArg Answer.count (answerTo_listed _ s _ _ ha)
  rw [xfer_noData h frameWren s rfl hsent, cycled_of_csHigh hcs, ha]
  rfl

/-! ### The busy-gate's runs -/

/-- A step of a busy-gate whose poll reads `b` with full counts (R121). -/
theorem step_busyPoll {h : Nat} {s : State} {b : Byte} {rest : List Answer} (hs : Serving h s)
    (hst : s.stage = .preBg ∨ s.stage = .postBg) (ha : s.answers = pollScript [b] ++ rest) :
    step s = .next (if b.getLsbD 0 then polled h [b] rest s else advance h [] (polled h [b] rest s)) :=
  calc step s
      = exec .rdsr1 s := hs.step_eq_exec (currentFrame_poll (hst.imp_right .inr) hs.inRow)
    _ = .next (gateThen h frameRdsr1 s _ _) := busyGatePollStep s h hs.owner hst hs.inRow
    _ = _ := congrArg Host.Outcome.next (gateThen_ok (xfer_poll_listed h hs.csHigh ha))

/-- A busy-gate whose polls all read bit 0 set stands where it stood (R122). -/
theorem steps_busyPolls {h : Nat} {s : State} {busy : List Byte} {rest : List Answer} (hs : Serving h s)
    (hst : s.stage = .preBg ∨ s.stage = .postBg) (hbusy : ∀ b ∈ busy, b.getLsbD 0 = true)
    (ha : s.answers = pollScript busy ++ rest) :
    steps busy.length s = .next (polled h busy rest s) := by
  induction busy generalizing s with
  | nil => exact congrArg Host.Outcome.next (polled_nil h ha).symm
  | cons b bs ih =>
    obtain ⟨hb, hbs⟩ := List.forall_mem_cons.mp hbusy
    rw [← List.singleton_append, pollScript_append, List.append_assoc] at ha
    have hstep := step_busyPoll hs hst ha
    rw [if_pos hb] at hstep
    rw [List.length_cons, steps_succ _ hstep, ih (s := polled h [b] _ s) { hs with } hst hbs rfl,
      polled_append, List.singleton_append]

/-- Settles O20, by induction on the polls. -/
theorem busyGatePollsWithoutLimit : Obligations.BusyGatePollsWithoutLimit :=
  fun _ _ _ _ hturns hcs ho hst hm hbusy ha => steps_busyPolls ⟨hturns, hcs, ho, hm⟩ hst hbusy ha

/-- Settles O21: the busy polls, and one step more. -/
theorem busyGateExitsAtTheFirstClearPoll : Obligations.BusyGateExitsAtTheFirstClearPoll := by
  intro s h busy clear rest hturns hcs ho hst hm hbusy hclear ha
  have hs : Serving h s := ⟨hturns, hcs, ho, hm⟩
  rw [pollScript_append, List.append_assoc] at ha
  have hstep := step_busyPoll (s := polled h busy _ s) (b := clear) (rest := rest) { hs with } hst rfl
  rw [hclear, polled_append] at hstep
  rw [steps_add _ _ _ _ (steps_busyPolls hs hst hbusy ha), steps_one _ _ hstep]
  simp [polled]

/-! ### The write-gate's runs -/

/-- The state after the WREN of a write-gate of host `h`, `rest` being the answers to come. -/
def wrenSent (h : Nat) (rest : List Answer) (s : State) : State :=
  { s with
    stage := .wgPoll
    trace := s.trace ++ [.txn h .wgWren [0x06] .noData 1 none [] true]
    answers := rest
    draws := s.draws + 1 }

/-- A write-gate goes from its enable half to its poll half inside its row (R140). -/
theorem Serving.wrenSent {h : Nat} {s : State} (hs : Serving h s) (hst : s.stage = .wgWren)
    (rest : List Answer) : Serving h (wrenSent h rest s) :=
  ⟨hs.turns, hs.csHigh, hs.owner, wgPoll_mem _ _ (hst ▸ hs.inRow)⟩

/-- The enable step of a write-gate with a full count (R123). -/
theorem step_wgEnable {h : Nat} {s : State} {rest : List Answer} (hs : Serving h s)
    (hst : s.stage = .wgWren) (ha : s.answers = ⟨1, []⟩ :: rest) :
    step s = .next (wrenSent h rest s) := by
  obtain ⟨-, -, henable⟩ := writeGateEnableStep
  have hx := xfer_wren_listed h hs.csHigh ha
  rw [hst] at hx
  calc step s
      = exec .wren s := hs.step_eq_exec (currentFrame_enable hst hs.inRow)
    _ = .next (gateThen h frameWren s _ _) := henable s h hs.owner hst hs.inRow
    _ = _ := congrArg Host.Outcome.next (gateThen_ok hx)

/-- A step of a write-gate whose poll reads `b` with full counts (R124). -/
theorem step_wgPoll {h : Nat} {s : State} {b : Byte} {rest : List Answer} (hs : Serving h s)
    (hst : s.stage = .wgPoll) (ha : s.answers = pollScript [b] ++ rest) :
    step s = .next { polled h [b] rest s with stage := if b.getLsbD 1 then .frame else .wgWren } :=
  calc step s
      = exec .rdsr1 s := hs.step_eq_exec (currentFrame_poll (.inr (.inl hst)) hs.inRow)
    _ = .next (gateThen h frameRdsr1 s _ _) := writeGatePollStep s h hs.owner hst hs.inRow
    _ = _ := congrArg Host.Outcome.next (gateThen_ok (xfer_poll_listed h hs.csHigh ha))

/-- One round of a write-gate, a WREN and a poll that reads `b` with full counts (R125). -/
theorem steps_wgRound {h : Nat} {s : State} {b : Byte} {rest : List Answer} (hs : Serving h s)
    (hst : s.stage = .wgWren) (ha : s.answers = wgScript [b] ++ rest) :
    steps 2 s = .next
      { wgPolled h [b] rest s with stage := if b.getLsbD 1 then .frame else .wgWren } := by
  have henable := step_wgEnable hs hst (rest := pollScript [b] ++ rest) ha
  have hpoll := step_wgPoll (hs.wrenSent hst (pollScript [b] ++ rest)) rfl rfl
  rw [steps_succ 1 henable, steps_one _ _ hpoll]
  simp [wrenSent, polled, wgPolled, pollEvents, wgEvents]

/-- A write-gate whose polls all read bit 1 clear stands at its enable half again (R125). -/
theorem steps_wgRounds {h : Nat} {s : State} {off : List Byte} {rest : List Answer} (hs : Serving h s)
    (hst : s.stage = .wgWren) (hoff : ∀ b ∈ off, b.getLsbD 1 = false)
    (ha : s.answers = wgScript off ++ rest) :
    steps (2 * off.length) s = .next (wgPolled h off rest s) := by
  induction off generalizing s with
  | nil => exact congrArg Host.Outcome.next (wgPolled_nil h ha).symm
  | cons b bs ih =>
    obtain ⟨hb, hbs⟩ := List.forall_mem_cons.mp hoff
    rw [← List.singleton_append, wgScript_append, List.append_assoc] at ha
    have hround : steps 2 s = .next (wgPolled h [b] (wgScript bs ++ rest) s) := by
      rw [steps_wgRound hs hst ha, hb, if_neg Bool.false_ne_true, ← hst]
      rfl
    rw [List.length_cons, Nat.mul_succ, Nat.add_comm, steps_add _ _ _ _ hround,
      ih (s := wgPolled h [b] _ s) { hs with } hst hbs rfl, wgPolled_append]
    rfl

/-- Settles O22: the rounds that leave the gate shut, by induction, and one round more. -/
theorem writeGateAlternatesUntilEnabled : Obligations.WriteGateAlternatesUntilEnabled := by
  intro s h off on rest hturns hcs ho hst hm hoff hon ha
  have hs : Serving h s := ⟨hturns, hcs, ho, hm⟩
  rw [wgScript_append, List.append_assoc] at ha
  have hshut := steps_wgRounds hs hst hoff ha
  have hopen := steps_wgRound (s := wgPolled h off _ s) (b := on) (rest := rest) { hs with } hst rfl
  rw [hon, if_pos rfl, wgPolled_append] at hopen
  refine ⟨hshut, ?_⟩
  rw [Nat.mul_succ, steps_add _ _ _ _ hshut, hopen]
  simp [wgPolled]

end Sys2Proof.Safety
end

section
/-! Proofs for 42_operations.md (R140), the sequencer: the stage rows, and the stages that follow one another
in them. -/

namespace Sys2Proof.Safety

open Sys2Proof.Machine

/-! ### The stage rows -/

/-- No row has a stage twice, so that a stage has one successor (R140). -/
theorem stageRow_nodup (wait : Bool) (i : Instr) : (stageRow wait i).Nodup := by
  cases i <;> cases wait <;> simp [stageRow]

/-- The entry after the first place of a stage. -/
theorem entryAfter_append_cons {st : Stage} {before : List Stage} (rest : List Stage) (hst : st ∉ before) :
    entryAfter st (before ++ st :: rest) = rest.head? := by
  induction before with
  | nil => simp [entryAfter]
  | cons x before ih =>
    obtain ⟨hx, hbefore⟩ := List.ne_and_not_mem_of_not_mem_cons hst
    simp [entryAfter, hx.symm, ih hbefore]

/-- The successor of a stage is the entry after its place in the row. -/
theorem nextStage_of_stageRow {wait : Bool} {i : Instr} {st : Stage} {before rest : List Stage}
    (hrow : stageRow wait i = before ++ st :: rest) : nextStage wait i st = rest.head? := by
  have hnodup : (before ++ st :: rest).Nodup := hrow ▸ stageRow_nodup wait i
  have hst : st ∉ before := fun hmem => (List.nodup_append.mp hnodup).2.2 st hmem st (by simp) rfl
  rw [nextStage, hrow, entryAfter_append_cons rest hst]

/-- The write-gate's poll half follows its enable half (R123, R140). -/
theorem nextStage_wgWren {wait : Bool} {i : Instr} (hm : Stage.wgWren ∈ stageRow wait i) :
    nextStage wait i .wgWren = some .wgPoll := by
  cases i <;> cases wait <;> simp [stageRow] at hm <;> rfl

theorem advance_of_nextStage {s : State} {st : Stage} (h : Nat) (rdata : List Byte)
    (hn : nextStage Config.wrsrWait (currentOp s) s.stage = some st) :
    advance h rdata s = { s with stage := st } := by
  rw [advance, hn]
  rfl

theorem advance_of_end {s : State} (h : Nat) (rdata : List Byte)
    (hn : nextStage Config.wrsrWait (currentOp s) s.stage = none) :
    advance h rdata s = answered h .ok .noCause rdata s := by
  rw [advance, hn, respond_eq]

/-- Settles O11: the table as it stands, and the successor by the place in the row. -/
theorem stageRowsOfTheSequencer : Obligations.StageRowsOfTheSequencer := by
  refine ⟨fun _ => rfl, fun _ _ _ => rfl, fun _ _ _ => rfl, fun _ _ => rfl, fun _ => rfl, fun _ _ => rfl,
    fun _ _ => rfl, fun _ => rfl, fun _ => rfl, fun _ => rfl, fun _ => rfl, fun _ => rfl, ?_, ?_, ?_,
    fun _ h rdata _ hn => advance_of_nextStage h rdata hn, fun _ h rdata hn => advance_of_end h rdata hn⟩
  · intro wait i st rest hrow
    rw [firstStage, hrow, List.head?_cons]
  · intro wait i st st' before after hrow
    exact nextStage_of_stageRow hrow
  · intro wait i st before hrow
    exact nextStage_of_stageRow hrow

end Sys2Proof.Safety
end

section
/-! Proofs for 42_operations.md (R142 to R152), the operations stage by stage: the gates of an operation, and
its own frame. -/

namespace Sys2Proof.Safety

open Sys2Proof.Machine

/-! ### A transaction that must succeed -/

section

variable {h : Nat} {f : Frame} {s u : State} {k k' : List Byte → State → State}

theorem sentThen_ok {rx : List Byte} (hx : xfer h f s = (.ok rx, u)) : sentThen h f s k = k rx u := by
  simp only [sentThen, hx]

/-- How a frame step goes on matters only for the bytes and the state that its transaction gives. -/
theorem sentThen_congr
    (hk : ∀ rx, (xfer h f s).1 = .ok rx → k rx (xfer h f s).2 = k' rx (xfer h f s).2) :
    sentThen h f s k = sentThen h f s k' := by
  unfold sentThen
  split
  · rfl
  · exact hk _ ‹_›

/-- A successful transaction gives as many bytes as its frame receives (R113). -/
theorem length_of_xfer_ok {rx : List Byte} (hx : (xfer h f s).1 = .ok rx) :
    rx.length = bytesReceived f := by
  obtain ⟨n1, n2, rx', ok, k, he, -, hlen, -⟩ := xfer_cases h f s
  rw [he] at hx
  cases ok with
  | false => cases hx
  | true =>
    obtain rfl := XferResult.ok.inj hx
    exact hlen

/-- A transaction keeps what follows its stage. -/
theorem nextStage_xfer (wait : Bool) : nextStage wait (currentOp (xfer h f s).2) (xfer h f s).2.stage =
    nextStage wait (currentOp s) s.stage := by
  obtain ⟨-, hstage, -⟩ := xfer_keeps h f s
  rw [currentOp_xfer, hstage]

/-- A frame step at the end of its row answers OK with the bytes received (R141). -/
theorem frameStep_of_end (hn : nextStage Config.wrsrWait (currentOp s) s.stage = none) :
    frameStep h f s = sentThen h f s fun rx t => answered h .ok .noCause rx t :=
  sentThen_congr (k := advance h) fun rx _ => advance_of_end h rx ((nextStage_xfer _).trans hn)

/-- A frame step inside its row goes to the next stage (R141). -/
theorem frameStep_of_nextStage {st : Stage}
    (hn : nextStage Config.wrsrWait (currentOp s) s.stage = some st) :
    frameStep h f s = sentThen h f s fun _ t => { t with stage := st } :=
  sentThen_congr (k := advance h) fun rx _ => advance_of_nextStage h rx ((nextStage_xfer _).trans hn)

/-- A frame that receives nothing has no bytes to answer (R113). -/
theorem sentThen_noRx (hf : bytesReceived f = 0) :
    (sentThen h f s fun rx t => answered h .ok .noCause rx t) =
      sentThen h f s fun _ t => answered h .ok .noCause [] t :=
  sentThen_congr fun rx hx => by rw [List.length_eq_zero_iff.mp ((length_of_xfer_ok hx).trans hf)]

end

/-! ### The stages of an operation -/

section

variable {s : State} {h : Nat} {i j : Instr} {f : Frame}

/-- After the grant an operation's meaning is what the frame of its stage does (R24, R140). -/
theorem exec_eq_runFrame (ho : s.owner = some h) (hop : currentOp s = i) (hf : currentFrame s = some j) :
    exec i s = .next (runFrame j h s) := by
  rw [← hop, exec_currentOp hf, exec_wire j s h ho hf (currentFrame_wire s j hf)]

/-- An operation in a busy-gate polls (R121). -/
theorem exec_busyPoll (ho : s.owner = some h) (hop : currentOp s = i)
    (hst : s.stage = .preBg ∨ s.stage = .postBg) (hm : s.stage ∈ stageRow Config.wrsrWait i) :
    exec i s = .next (busyPoll Config.gateErrPolicy h s) := by
  rw [exec_eq_runFrame ho hop (currentFrame_poll (hst.imp_right .inr) (hop ▸ hm)), runFrame_busyPoll h hst]

/-- An operation in the enable half of its write-gate sends WREN (R123). -/
theorem exec_wgEnable (ho : s.owner = some h) (hop : currentOp s = i) (hst : s.stage = .wgWren)
    (hm : s.stage ∈ stageRow Config.wrsrWait i) :
    exec i s = .next (wgEnable Config.gateErrPolicy h s) := by
  rw [exec_eq_runFrame ho hop (currentFrame_enable hst (hop ▸ hm)), runFrame_wgEnable h hst]

/-- An operation in the poll half of its write-gate polls (R124). -/
theorem exec_wgPoll (ho : s.owner = some h) (hop : currentOp s = i) (hst : s.stage = .wgPoll)
    (hm : s.stage ∈ stageRow Config.wrsrWait i) :
    exec i s = .next (wgPoll Config.gateErrPolicy h s) := by
  rw [exec_eq_runFrame ho hop (currentFrame_poll (.inr (.inl hst)) (hop ▸ hm)), runFrame_wgPoll h hst]

/-- Every operation that has a frame of its own has the FRAME stage (R140). -/
theorem frame_mem_stageRow (wait : Bool) (hown : ownFrame i = some j) : Stage.frame ∈ stageRow wait i := by
  cases i with
  | writeSr v1 v2 => cases wait <;> simp [stageRow]
  | identify | read | program | eraseSector | eraseChip | writeEnable | writeDisable | readSr1 | readSr2
  | init => simp [stageRow]
  | _ => cases hown

/-- An operation other than INIT sends its own frame at FRAME; the wire frame's meaning is the same. -/
theorem exec_ownFrame (ho : s.owner = some h) (hop : currentOp s = i) (hst : s.stage = .frame)
    (hi : i ≠ .init) (hown : ownFrame i = some j) (hj : encode j = .frame f) :
    exec i s = .next (frameStep h f s) ∧ exec j s = exec i s := by
  subst hop
  have hf : currentFrame s = some j :=
    stageFrame_eq_some_iff.mpr ⟨hst ▸ frame_mem_stageRow _ hown, .inr (.inr (.inr (.inr ⟨hst, hown⟩)))⟩
  obtain ⟨f', hj', hrun⟩ := runFrame_own s j h hst hi (currentFrame_wire s j hf)
  obtain rfl := Code.frame.inj (hj'.symm.trans hj)
  exact ⟨(exec_eq_runFrame ho rfl hf).trans (congrArg _ hrun), (exec_currentOp hf).symm⟩

/-- An operation that ends with its own frame answers OK with the bytes received, or TRANSACTION (R141). -/
theorem exec_lastFrame (ho : s.owner = some h) (hop : currentOp s = i) (hst : s.stage = .frame)
    (hi : i ≠ .init) (hown : ownFrame i = some j) (hj : encode j = .frame f)
    (hn : nextStage Config.wrsrWait i .frame = none) :
    exec i s = .next (sentThen h f s fun rx t => answered h .ok .noCause rx t) ∧ exec j s = exec i s := by
  rw [← hop, ← hst] at hn
  exact frameStep_of_end hn ▸ exec_ownFrame ho hop hst hi hown hj

/-- The same for a frame that receives nothing: OK with no data, or TRANSACTION. -/
theorem exec_lastFrame_noRx (ho : s.owner = some h) (hop : currentOp s = i) (hst : s.stage = .frame)
    (hi : i ≠ .init) (hown : ownFrame i = some j) (hj : encode j = .frame f)
    (hn : nextStage Config.wrsrWait i .frame = none) (hrx : bytesReceived f = 0) :
    exec i s = .next (sentThen h f s fun _ t => answered h .ok .noCause [] t) ∧ exec j s = exec i s :=
  sentThen_noRx hrx ▸ exec_lastFrame ho hop hst hi hown hj hn

/-- An operation that waits after its own frame goes to the post-gate, or answers TRANSACTION (R141). -/
theorem exec_frameBeforePostGate (ho : s.owner = some h) (hop : currentOp s = i) (hst : s.stage = .frame)
    (hi : i ≠ .init) (hown : ownFrame i = some j) (hj : encode j = .frame f)
    (hn : nextStage Config.wrsrWait i .frame = some .postBg) :
    exec i s = .next (sentThen h f s fun _ t => { t with stage := .postBg }) ∧ exec j s = exec i s := by
  rw [← hop, ← hst] at hn
  exact frameStep_of_nextStage hn ▸ exec_ownFrame ho hop hst hi hown hj

end

/-! ### The operations without a gate -/

/-- Settles O23: IDENTIFY ends with its own frame, RDID. -/
theorem identifyReportsTheThreeBytes : Obligations.IdentifyReportsTheThreeBytes := by
  refine ⟨fun _ => rfl, fun s h ho hc hst => ?_⟩
  obtain ⟨-, hop, -⟩ := commandCodesSelectTheOperations s.op
  exact exec_lastFrame ho (hop hc) hst nofun rfl rfl rfl

/-- Settles O29: WRITE_ENABLE ends with its own frame, WREN. -/
theorem writeEnableSendsWren : Obligations.WriteEnableSendsWren := by
  refine ⟨fun _ => rfl, fun s h ho hc hst => ?_⟩
  obtain ⟨-, -, -, -, -, -, -, hop, -⟩ := commandCodesSelectTheOperations s.op
  exact exec_lastFrame_noRx ho (hop hc) hst nofun rfl rfl rfl rfl

/-- Settles O30: WRITE_DISABLE ends with its own frame, WRDI. -/
theorem writeDisableSendsWrdi : Obligations.WriteDisableSendsWrdi := by
  refine ⟨fun _ => rfl, fun s h ho hc hst => ?_⟩
  obtain ⟨-, -, -, -, -, -, -, -, hop, -⟩ := commandCodesSelectTheOperations s.op
  exact exec_lastFrame_noRx ho (hop hc) hst nofun rfl rfl rfl rfl

/-- Settles O31: READ_SR1 ends with its own frame, RDSR1. -/
theorem readSr1ReportsTheByte : Obligations.ReadSr1ReportsTheByte := by
  refine ⟨fun _ => rfl, fun s h ho hc hst => ?_⟩
  obtain ⟨-, -, -, -, -, -, -, -, -, hop, -⟩ := commandCodesSelectTheOperations s.op
  exact exec_lastFrame ho (hop hc) hst nofun rfl rfl rfl

/-- Settles O32: READ_SR2 ends with its own frame, RDSR2. -/
theorem readSr2ReportsTheByte : Obligations.ReadSr2ReportsTheByte := by
  refine ⟨fun _ => rfl, fun s h ho hc hst => ?_⟩
  obtain ⟨-, -, -, -, -, -, -, -, -, -, hop, -⟩ := commandCodesSelectTheOperations s.op
  exact exec_lastFrame ho (hop hc) hst nofun rfl rfl rfl

/-! ### The operations behind a gate -/

/-- Settles O24: READ's busy-gate, and the frame READ that ends it. -/
theorem readReturnsTheBytes : Obligations.ReadReturnsTheBytes := by
  refine ⟨fun _ _ _ => rfl, fun s h ho hc => ?_⟩
  obtain ⟨-, -, hdec, -⟩ := commandCodesSelectTheOperations s.op
  have hop : currentOp s = .read s.op.addr s.op.rlen := hdec hc
  refine ⟨fun hst => ?_, fun hst => ?_⟩
  · exact exec_busyPoll ho hop (.inl hst) (by simp [hst, stageRow])
  · exact exec_lastFrame ho hop hst nofun rfl rfl rfl

/-- Settles O25: PROGRAM's gates, and the frame PP that ends it. -/
theorem programSendsThePayload : Obligations.ProgramSendsThePayload := by
  refine ⟨fun _ _ _ => rfl, fun s h ho hc => ?_⟩
  obtain ⟨-, -, -, hdec, -⟩ := commandCodesSelectTheOperations s.op
  have hop : currentOp s = .program s.op.addr s.op.wdata := hdec hc
  refine ⟨fun hst => ?_, fun hst => ?_, fun hst => ?_, fun hst => ?_⟩
  · exact exec_busyPoll ho hop (.inl hst) (by simp [hst, stageRow])
  · exact exec_wgEnable ho hop hst (by simp [hst, stageRow])
  · exact exec_wgPoll ho hop hst (by simp [hst, stageRow])
  · exact exec_lastFrame_noRx ho hop hst nofun rfl rfl rfl rfl

/-- Settles O26: ERASE_SECTOR's gates, and the frame SE at the sector's address before its post-gate. -/
theorem eraseSectorWaitsAfterItsFrame : Obligations.EraseSectorWaitsAfterItsFrame := by
  refine ⟨fun _ _ => rfl, fun s h ho hc => ?_⟩
  obtain ⟨-, -, -, -, hdec, -⟩ := commandCodesSelectTheOperations s.op
  have hop : currentOp s = .eraseSector s.op.sector := hdec hc
  refine ⟨fun hst => ?_, fun hst => ?_, fun hst => ?_, fun a ha hst => ?_⟩
  · exact exec_busyPoll ho hop hst (by rcases hst with hst | hst <;> simp [hst, stageRow])
  · exact exec_wgEnable ho hop hst (by simp [hst, stageRow])
  · exact exec_wgPoll ho hop hst (by simp [hst, stageRow])
  · obtain rfl : a = sectorAddr s.op.sector := BitVec.eq_of_toNat_eq (ha.trans (sectorAddr_toNat _).symm)
    exact exec_frameBeforePostGate ho hop hst nofun rfl rfl rfl

/-- Settles O27: ERASE_CHIP's gates, and the frame CE before its post-gate. -/
theorem eraseChipWaitsAfterItsFrame : Obligations.EraseChipWaitsAfterItsFrame := by
  refine ⟨fun _ => rfl, fun s h ho hc => ?_⟩
  obtain ⟨-, -, -, -, -, hdec, -⟩ := commandCodesSelectTheOperations s.op
  have hop : currentOp s = .eraseChip := hdec hc
  refine ⟨fun hst => ?_, fun hst => ?_, fun hst => ?_, fun hst => ?_⟩
  · exact exec_busyPoll ho hop hst (by rcases hst with hst | hst <;> simp [hst, stageRow])
  · exact exec_wgEnable ho hop hst (by simp [hst, stageRow])
  · exact exec_wgPoll ho hop hst (by simp [hst, stageRow])
  · exact exec_frameBeforePostGate ho hop hst nofun rfl rfl rfl

/-- WRITE_SR has its write-gate and its frame at both values of `WRSR_WAIT`, and ends with the frame (R148). -/
theorem stageRow_writeSr (wait : Bool) (v1 v2 : Byte) :
    Stage.wgWren ∈ stageRow wait (.writeSr v1 v2) ∧ Stage.wgPoll ∈ stageRow wait (.writeSr v1 v2) ∧
      nextStage wait (.writeSr v1 v2) .frame = none := by
  cases wait <;> simp [stageRow, nextStage, entryAfter]

/-- Settles O28: WRITE_SR's gates, the busy-gate only under `WRSR_WAIT`, and the frame WRSR that ends it. -/
theorem writeSrSendsBothBytes : Obligations.WriteSrSendsBothBytes := by
  refine ⟨fun _ _ => rfl, fun _ _ => rfl, fun s h ho hc => ?_⟩
  obtain ⟨-, -, -, -, -, -, hdec, -⟩ := commandCodesSelectTheOperations s.op
  have hop : currentOp s = .writeSr s.op.sr1v s.op.sr2v := hdec hc
  obtain ⟨henable, hpoll, hend⟩ := stageRow_writeSr Config.wrsrWait s.op.sr1v s.op.sr2v
  refine ⟨fun hst => ?_, fun hst => ?_, fun hst => ?_, fun hst => ?_⟩
  · split
    · next hwait => exact exec_busyPoll ho hop (.inl hst) (by simp [hst, stageRow, hwait])
    · trivial
  · exact exec_wgEnable ho hop hst (hst ▸ henable)
  · exact exec_wgPoll ho hop hst (hst ▸ hpoll)
  · exact exec_lastFrame_noRx ho hop hst nofun rfl rfl hend rfl

end Sys2Proof.Safety
end

section
/-! Proofs for 42_operations.md (R153, R154), the gates along the trace: where the owner's frame goes on and which
poll let it, and that every step keeps a property that a gate enforces. -/

namespace Sys2Proof.Safety

open Sys2Proof.Machine

/-! ### A poll's event -/

section

variable {h : Nat} {f : Frame} {s : State}

/-- The event of a successful transaction shows the bytes received (R117). -/
theorem txnEvent_of_xfer_ok {rx : List Byte} (hx : (xfer h f s).1 = .ok rx) :
    txnEvent h f s = .txn h s.stage f.cmd f.data (sentCount f.cmd s) (txnCount2 f s) rx true := by
  rw [xfer_eq_cycled] at hx
  cases hok : txnOk f s with
  | false => simp [hok] at hx
  | true =>
    have hrx : txnBytes f s = rx := by simpa [hok] using hx
    rw [txnEvent, hok, hrx]

/-- The event of a failed transaction shows no bytes (R117). -/
theorem txnEvent_of_xfer_fail (hx : (xfer h f s).1 = .fail) :
    txnEvent h f s = .txn h s.stage f.cmd f.data (sentCount f.cmd s) (txnCount2 f s) [] false := by
  rw [xfer_eq_cycled] at hx
  cases hok : txnOk f s with
  | false => rw [txnEvent, hok, txnBytes_of_not_txnOk hok]
  | true => simp [hok] at hx

/-- A poll with full counts whose byte passes a gate's test (R121, R124). -/
theorem isPoll_txnEvent {test : Byte → Bool} {rx : List Byte} (hx : (xfer h frameRdsr1 s).1 = .ok rx)
    (ht : test (rx.headD 0) = true) : isPoll test h s.stage (txnEvent h frameRdsr1 s) := by
  obtain ⟨b, rfl⟩ := List.length_eq_one_iff.mp (length_of_xfer_ok hx)
  exact ⟨_, _, b, txnEvent_of_xfer_ok hx, ht⟩

theorem isFailedPoll_txnEvent (hx : (xfer h frameRdsr1 s).1 = .fail) :
    isFailedPoll h s.stage (txnEvent h frameRdsr1 s) :=
  ⟨_, _, txnEvent_of_xfer_fail hx⟩

/-- A gate's poll raises TRANSACTION, or decides on a byte: what that byte passes the poll has shown, or, under
`IGNORE` only, the poll has failed (R121, R124, R126, R127). -/
theorem gatePoll_decides (decideOn : Nat → Byte → State → State) (h : Nat) (s : State) :
    ∃ u, afterCycle (xfer h frameRdsr1 s).2 u ∧
      (gatePoll Config.gateErrPolicy decideOn h s = answered h .error .transaction [] u ∨
        ∃ b, gatePoll Config.gateErrPolicy decideOn h s = decideOn h b u ∧
          ∀ test : Byte → Bool, test b = true →
            isPoll test h s.stage (txnEvent h frameRdsr1 s) ∨
              (Config.gateErrPolicy = .ignore ∧ isFailedPoll h s.stage (txnEvent h frameRdsr1 s))) := by
  rcases gatePoll_cases Config.gateErrPolicy decideOn h s with ⟨rx, hx, he⟩ | ⟨-, -, he⟩ | ⟨hx, hp, he⟩
  · exact ⟨_, .inl rfl, .inr ⟨_, he, fun _ ht => .inl (isPoll_txnEvent hx ht)⟩⟩
  · exact ⟨_, .inl rfl, .inl he⟩
  · exact ⟨_, .inr rfl, .inr ⟨_, he, fun _ _ => .inr ⟨hp, isFailedPoll_txnEvent hx⟩⟩⟩

/-- The state after the owner's cycle differs from that before it by the cycle's event, as far as the gates'
properties read it. -/
theorem afterCycle_keeps {u : State} (hu : afterCycle (xfer h f s).2 u) :
    u.trace = s.trace ++ [txnEvent h f s] ∧ u.owner = s.owner ∧ u.stage = s.stage ∧
      currentOp u = currentOp s := by
  obtain ⟨-, hstage, howner⟩ := xfer_keeps h f s
  rcases hu with rfl | rfl <;> exact ⟨xfer_trace h f s, howner, hstage, currentOp_xfer h f s⟩

end

/-! ### Where the owner's frame goes on -/

/-- The stages in which frame `f` of host `h` can leave an operation that has not ended: a busy-gate's own, the
write-gate's enable half again, or the next one of the row, into which a gate has let it (R121, R124, R140). -/
inductive GoesTo (h : Nat) (f : Frame) (s : State) : Stage → Prop
  | pollAgain (hst : s.stage = .preBg ∨ s.stage = .postBg) : GoesTo h f s s.stage
  | enableAgain (hst : s.stage = .wgPoll) : GoesTo h f s .wgWren
  | next {st : Stage} (hn : nextStage Config.wrsrWait (currentOp s) s.stage = some st)
      (hbusy : s.stage = .preBg → letByBusyGate h (txnEvent h f s))
      (hwrite : s.stage = .wgPoll → letByWriteGate h (txnEvent h f s)) : GoesTo h f s st

/-- Frame `f` of host `h` takes `s` to `t`: after the cycle the owner is answered, or goes on. -/
def FrameTakes (h : Nat) (f : Frame) (s t : State) : Prop :=
  ∃ u, afterCycle (xfer h f s).2 u ∧
    ((∃ r c d, t = answered h r c d u) ∨ ∃ st, GoesTo h f s st ∧ t = u.goto st)

section

variable {h : Nat} {f : Frame} {s : State}

/-- A stage that is done goes to the next one, or the owner is answered (R140). -/
theorem frameTakes_advance {u : State} (hu : afterCycle (xfer h f s).2 u) (rdata : List Byte)
    (hbusy : s.stage = .preBg → letByBusyGate h (txnEvent h f s))
    (hwrite : s.stage = .wgPoll → letByWriteGate h (txnEvent h f s)) :
    FrameTakes h f s (advance h rdata u) := by
  obtain ⟨-, -, hstage, hop⟩ := afterCycle_keeps hu
  rcases advance_cases h rdata u with ⟨st, hn, he⟩ | ⟨-, he⟩
  · rw [hop, hstage] at hn
    exact ⟨u, hu, .inr ⟨st, .next hn hbusy hwrite, he⟩⟩
  · exact ⟨u, hu, .inl ⟨_, _, _, he⟩⟩

/-- A busy-gate stays, or goes on past a poll that let it (R121). -/
theorem frameTakes_busyPoll (hst : s.stage = .preBg ∨ s.stage = .postBg) :
    FrameTakes h frameRdsr1 s (busyPoll Config.gateErrPolicy h s) := by
  obtain ⟨u, hu, he | ⟨b, he, hlet⟩⟩ := gatePoll_decides busyDecide h s <;> rw [busyPoll, he]
  · exact ⟨u, hu, .inl ⟨_, _, _, rfl⟩⟩
  · unfold busyDecide
    split
    next =>
      obtain ⟨-, -, hstage, -⟩ := afterCycle_keeps hu
      exact ⟨u, hu, .inr ⟨_, .pollAgain hst, hstage ▸ rfl⟩⟩
    next hwip =>
      have hnot : s.stage ≠ .wgPoll := by rcases hst with hst | hst <;> simp [hst]
      exact frameTakes_advance hu []
        (fun hpre => by simpa [letByBusyGate, hpre] using hlet (fun b => !wip b) (by simpa using hwip))
        (absurd · hnot)

/-- A write-gate's poll goes back to its enable half, or on past a poll that let it (R124). -/
theorem frameTakes_wgPoll (hst : s.stage = .wgPoll) :
    FrameTakes h frameRdsr1 s (wgPoll Config.gateErrPolicy h s) := by
  obtain ⟨u, hu, he | ⟨b, he, hlet⟩⟩ := gatePoll_decides wgDecide h s <;> rw [wgPoll, he]
  · exact ⟨u, hu, .inl ⟨_, _, _, rfl⟩⟩
  · unfold wgDecide
    split
    next hwel =>
      rw [hst] at hlet
      exact frameTakes_advance hu [] (by simp [hst]) (fun _ => hlet wel hwel)
    next => exact ⟨u, hu, .inr ⟨_, .enableAgain hst, rfl⟩⟩

/-- A write-gate's enable half goes on to its poll half (R123). -/
theorem frameTakes_wgEnable (hst : s.stage = .wgWren)
    (hm : s.stage ∈ stageRow Config.wrsrWait (currentOp s)) :
    FrameTakes h frameWren s (wgEnable Config.gateErrPolicy h s) := by
  rcases wgEnable_cases Config.gateErrPolicy h s with ⟨-, -, he⟩ | ⟨-, he⟩ <;> rw [he]
  · exact ⟨_, .inl rfl, .inl ⟨_, _, _, rfl⟩⟩
  · have hn : nextStage Config.wrsrWait (currentOp s) s.stage = some .wgPoll := by
      rw [hst] at hm ⊢
      exact nextStage_wgWren hm
    exact ⟨_, .inl rfl, .inr ⟨_, .next hn (by simp [hst]) (by simp [hst]), rfl⟩⟩

/-- A frame step off the gates goes on to the next stage (R141). -/
theorem frameTakes_frameStep (hpre : s.stage ≠ .preBg) (hpoll : s.stage ≠ .wgPoll) :
    FrameTakes h f s (frameStep h f s) := by
  rcases frameStep_cases h f s with ⟨-, he⟩ | ⟨rx, -, he⟩ <;> rw [he]
  · exact ⟨_, .inl rfl, .inl ⟨_, _, _, rfl⟩⟩
  · exact frameTakes_advance (.inl rfl) rx (absurd · hpre) (absurd · hpoll)

/-- INIT's identity step answers (R182, R183). -/
theorem frameTakes_initIdentity : FrameTakes h frameRdid s (initIdentity h s) := by
  rcases initIdentity_cases h s with ⟨-, he⟩ | ⟨rx, -, -, he⟩ | ⟨rx, -, -, he⟩ <;>
    exact ⟨_, .inl rfl, .inl ⟨_, _, _, he⟩⟩

/-- Everything the owner's frame can do to the operation, stage by stage. -/
theorem runFrame_takes {j : Instr} (h : Nat) (hf : currentFrame s = some j) :
    ∃ f, encode j = .frame f ∧ FrameTakes h f s (runFrame j h s) := by
  have hm := currentFrame_mem s j hf
  obtain ⟨-, -, -, -, hrsten, hrst, hframe⟩ := currentFrame_gate s hm
  have sent {k : Instr} (hk : currentFrame s = some k) : k = j := Option.some.inj (hk.symm.trans hf)
  rcases runFrame_stage s j h hf with ⟨hst, he⟩ | ⟨hst, he⟩ | ⟨hst, he⟩ | ⟨hst, he⟩ | ⟨hst, he⟩ |
    ⟨hst, hi, he⟩ | ⟨hst, -, -, f, hj, he⟩ <;> rw [he]
  · obtain rfl := sent (currentFrame_poll (hst.imp_right .inr) hm)
    exact ⟨_, rfl, frameTakes_busyPoll hst⟩
  · obtain rfl := sent (currentFrame_poll (.inr (.inl hst)) hm)
    exact ⟨_, rfl, frameTakes_wgPoll hst⟩
  · obtain rfl := sent (currentFrame_enable hst hm)
    exact ⟨_, rfl, frameTakes_wgEnable hst hm⟩
  · obtain rfl := sent (hrsten hst)
    exact ⟨_, rfl, frameTakes_frameStep (by simp [hst]) (by simp [hst])⟩
  · obtain rfl := sent (hrst hst)
    exact ⟨_, rfl, frameTakes_frameStep (by simp [hst]) (by simp [hst])⟩
  · obtain rfl : .rdid = j := sent ((hframe hst).trans (hi ▸ rfl))
    exact ⟨_, rfl, frameTakes_initIdentity⟩
  · exact ⟨f, hj, frameTakes_frameStep (by simp [hst]) (by simp [hst])⟩

end

/-- The command phases of the frames that the stages other than FRAME send: WREN, RDSR1, RSTEN, RST. -/
def oneByteCmds : List (List Byte) := [[0x06], [0x05], [0x66], [0x99]]

/-- The frame sent is the operation's own, at FRAME, or one of those of the other stages (R119, R140). -/
theorem ownFrame_or_oneByte {s : State} {j : Instr} {f : Frame} (hf : currentFrame s = some j)
    (hj : encode j = .frame f) :
    (s.stage = .frame ∧ ownFrame (currentOp s) = some j) ∨ f.cmd ∈ oneByteCmds := by
  obtain ⟨-, ⟨-, rfl⟩ | ⟨-, rfl⟩ | ⟨-, rfl⟩ | ⟨-, rfl⟩ | hown⟩ := stageFrame_eq_some_iff.mp hf
  case inr.inr.inr.inr => exact .inl hown
  all_goals
    cases hj
    exact .inr (by decide)

/-! ### A property of the trace that a gate enforces -/

/-- Every event of the trace is right after the one before it, and the operation being served is ready, at its
stage and after the last event, to send its next frame. -/
def Gated (right : Option Event → Event → Prop) (ready : Nat → Stage → Instr → Option Event → Prop)
    (s : State) : Prop :=
  chained right none s.trace ∧ ∀ h, s.owner = some h → ready h s.stage (currentOp s) s.trace.getLast?

/-- What makes a property of the trace one that every step keeps: it speaks of transactions only, an operation
is granted ready, one that is ready sends a right frame, and one that goes on is ready again. -/
structure Enforced (right : Option Event → Event → Prop)
    (ready : Nat → Stage → Instr → Option Event → Prop) : Prop where
  quiet : ∀ prev e, isTxn e = false → right prev e
  granted : ∀ h q st, firstStage Config.wrsrWait (decodeRequest q) = some st →
    ready h st (decodeRequest q) (some (.grant h q))
  sends : ∀ h s j f, currentFrame s = some j → encode j = .frame f →
    ready h s.stage (currentOp s) s.trace.getLast? → right s.trace.getLast? (txnEvent h f s)
  goesOn : ∀ h f s st, GoesTo h f s st → ready h st (currentOp s) (some (txnEvent h f s))

section

variable {right : Option Event → Event → Prop} {ready : Nat → Stage → Instr → Option Event → Prop}

theorem chained_emit {t : List Event} {e : Event} (ht : chained right none t) (he : right t.getLast? e) :
    chained right none (t ++ [e]) :=
  (chained_append right none t e).mpr ⟨ht, by rwa [Option.or_none]⟩

/-- An answer leaves nothing to be sent. -/
theorem Enforced.answered (he : Enforced right ready) {s : State} (hs : chained right none s.trace) (h : Nat)
    (r : Result) (c : Cause) (d : List Byte) : Gated right ready (answered h r c d s) :=
  ⟨chained_emit hs (he.quiet _ _ rfl), fun _ ho => nomatch ho⟩

theorem Enforced.grantTo (he : Enforced right ready) {s : State} (hs : Gated right ready s) (h : Nat)
    (q : Request) : Gated right ready (grantTo Config.wrsrWait h q s) := by
  have hchain : chained right none (s.trace ++ [.grant h q]) := chained_emit hs.1 (he.quiet _ _ rfl)
  rcases grantTo_cases Config.wrsrWait h q s with ⟨st, hfirst, ht⟩ | ⟨-, ht⟩ <;> rw [ht]
  · refine ⟨hchain, fun h' ho => ?_⟩
    obtain rfl : h = h' := Option.some.inj ho
    exact (List.getLast?_concat ..).symm ▸ he.granted h q st hfirst
  · exact he.answered (s := (s.latch h q).emit (.grant h q)) hchain h _ _ _

theorem Enforced.runFrame (he : Enforced right ready) {s : State} {h : Nat} {j : Instr}
    (hs : Gated right ready s) (ho : s.owner = some h) (hf : currentFrame s = some j) :
    Gated right ready (runFrame j h s) := by
  obtain ⟨hchain, hready⟩ := hs
  obtain ⟨f, hj, u, hu, ht⟩ := runFrame_takes h hf
  obtain ⟨htrace, howner, -, hop⟩ := afterCycle_keeps hu
  have hsent : chained right none u.trace := by
    rw [htrace]
    exact chained_emit hchain (he.sends h s j f hf hj (hready h ho))
  rcases ht with ⟨r, c, d, ht⟩ | ⟨st, hst, ht⟩ <;> rw [ht]
  · exact he.answered hsent h r c d
  · refine ⟨hsent, fun h' ho' => ?_⟩
    obtain rfl : h = h' := Option.some.inj (ho.symm.trans (howner.symm.trans ho'))
    have hlast : u.trace.getLast? = some (txnEvent h f s) := by rw [htrace, List.getLast?_concat]
    exact hlast ▸ hop ▸ he.goesOn h f s st hst

/-- Every step of every agent keeps what a gate enforces. -/
theorem Enforced.step_keeps (he : Enforced right ready) {s t : State} (hs : Gated right ready s)
    (hstep : step s = .next t) : Gated right ready t :=
  Machine.step_keeps (Gated right ready) s t
    (hturns := fun _ _ hp => hp)
    (hgrant := fun _ h q hp _ _ => he.grantTo hp h q)
    (hframe := fun _ _ _ hp ho hf => he.runFrame hp ho hf)
    (hpost := fun s h q hp => by unfold post; split <;> exact hp)
    (htake := fun s h hp => by unfold take; split <;> exact hp)
    (hreset := fun _ hp => ⟨chained_emit hp.1 (he.quiet _ _ rfl), fun _ ho => nomatch ho⟩)
    hs hstep

end

/-! ### The write-gate (R153) -/

/-- An operation that stands before its mutating frame has just been let through its write-gate. -/
def writeGateReady (h : Nat) (st : Stage) (i : Instr) (last : Option Event) : Prop :=
  st = .frame → mutatingOp i = true → ∃ p, last = some p ∧ letByWriteGate h p

theorem writeGateInv_iff_gated {s : State} : WriteGateInv s ↔ Gated writeGateStep writeGateReady s :=
  and_congr_right fun _ => ⟨fun hs h ho hst hm => hs hst hm h ho, fun hs hst hm h ho => hs h ho hst hm⟩

/-- Every operation with a mutating frame has a write-gate (R96, R140). -/
theorem wgPoll_mem_of_mutatingOp {i : Instr} (wait : Bool) (hm : mutatingOp i = true) :
    Stage.wgPoll ∈ stageRow wait i := by
  cases i with
  | writeSr v1 v2 => cases wait <;> simp [stageRow]
  | program | eraseSector | eraseChip => simp [stageRow]
  | read a n => simp [mutatingOp, ownFrame, encode, frameRead, mutatingCmd] at hm
  | _ => cases hm

/-- No row with a write-gate begins at FRAME (R140). -/
theorem firstStage_ne_frame {wait : Bool} {i : Instr} (hm : Stage.wgPoll ∈ stageRow wait i) :
    firstStage wait i ≠ some .frame := by
  cases i with
  | program | eraseSector | eraseChip | writeSr => cases wait <;> simp [firstStage, stageRow]
  | _ => simp [stageRow] at hm

/-- In a row with a write-gate FRAME comes after its poll half only (R140). -/
theorem eq_wgPoll_of_nextStage {wait : Bool} {i : Instr} {st : Stage} (hm : Stage.wgPoll ∈ stageRow wait i)
    (hn : nextStage wait i st = some .frame) : st = .wgPoll := by
  cases i with
  | program | eraseSector | eraseChip | writeSr =>
    cases wait <;> cases st <;> simp [nextStage, stageRow, entryAfter] at hn ⊢
  | _ => simp [stageRow] at hm

/-- A mutating frame is sent at FRAME, as the operation's own (R96). -/
theorem mutatingOp_of_mutatingCmd {s : State} {j : Instr} {f : Frame} (hf : currentFrame s = some j)
    (hj : encode j = .frame f) (hm : mutatingCmd f.cmd = true) :
    s.stage = .frame ∧ mutatingOp (currentOp s) = true := by
  rcases ownFrame_or_oneByte hf hj with ⟨hst, hown⟩ | hmem
  · exact ⟨hst, by simp [mutatingOp, hown, hj, hm]⟩
  · have hnone : ∀ cmd ∈ oneByteCmds, ¬ mutatingCmd cmd = true := by decide
    exact absurd hm (hnone _ hmem)

/-- The write-gate enforces its property. -/
theorem writeGate_enforced : Enforced writeGateStep writeGateReady where
  quiet prev e he := by
    cases e with
    | txn => cases he
    | _ => trivial
  granted h q st hfirst hst hm :=
    absurd (hst ▸ hfirst) (firstStage_ne_frame (wgPoll_mem_of_mutatingOp _ hm))
  sends h s j f hf hj hready hm := by
    obtain ⟨hst, hop⟩ := mutatingOp_of_mutatingCmd hf hj hm
    exact hready hst hop
  goesOn h f s st hgo hst hm := by
    cases hgo with
    | pollAgain hbg => simp [hst] at hbg
    | enableAgain => cases hst
    | next hn _ hwrite =>
      subst hst
      exact ⟨_, rfl, hwrite (eq_wgPoll_of_nextStage (wgPoll_mem_of_mutatingOp _ hm) hn)⟩

/-- Settles O50: the write-gate's property is one that its gate enforces. -/
theorem stepKeepsTheWriteGateProperty : Obligations.StepKeepsTheWriteGateProperty := by
  intro s t hs hstep
  rw [writeGateInv_iff_gated] at hs ⊢
  exact writeGate_enforced.step_keeps hs hstep

/-! ### The busy-gate (R154) -/

/-- A READ that stands before its frame has just been let through its pre-gate, and so has a write-gate that
stands at its enable half after a pre-gate. -/
def busyGateReady (h : Nat) (st : Stage) (i : Instr) (last : Option Event) : Prop :=
  (st = .frame → isRead i → ∃ p, last = some p ∧ letByBusyGate h p) ∧
  (st = .wgWren → ∀ p, last = some p →
    (∃ h' cmd d n1 n2 rx ok, p = .txn h' .preBg cmd d n1 n2 rx ok) → letByBusyGate h p)

theorem busyGateInv_iff_gated {s : State} : BusyGateInv s ↔ Gated busyGateStep busyGateReady s := Iff.rfl

/-- READ's FRAME comes after its pre-gate only (R140). -/
theorem eq_preBg_of_nextStage {wait : Bool} {i : Instr} {st : Stage} (hi : isRead i)
    (hn : nextStage wait i st = some .frame) : st = .preBg := by
  obtain ⟨a, n, rfl⟩ := hi
  cases st <;> simp [nextStage, stageRow, entryAfter] at hn ⊢

/-- The opcode 0x03 is sent at FRAME, as READ's own (R89). -/
theorem isRead_of_opcode {s : State} {j : Instr} {f : Frame} (hf : currentFrame s = some j)
    (hj : encode j = .frame f) (hop : f.cmd.head? = some 0x03) :
    s.stage = .frame ∧ isRead (currentOp s) := by
  rcases ownFrame_or_oneByte hf hj with ⟨hst, hown⟩ | hmem
  case inr =>
    have hnone : ∀ cmd ∈ oneByteCmds, cmd.head? ≠ some 0x03 := by decide
    exact absurd hop (hnone _ hmem)
  refine ⟨hst, ?_⟩
  cases hi : currentOp s with
  | read a n => exact ⟨a, n, rfl⟩
  | program | eraseSector | eraseChip | writeSr | identify | writeEnable | writeDisable | readSr1 | readSr2
  | init =>
    rw [hi] at hown
    cases hown; cases hj
    simp [framePp, frameSe, frameCe, frameWrsr, frameRdid, frameWren, frameWrdi, frameRdsr1, frameRdsr2] at hop
  | _ => rw [hi] at hown; cases hown

/-- The busy-gate enforces its property. -/
theorem busyGate_enforced : Enforced busyGateStep busyGateReady where
  quiet prev e he := by
    cases e with
    | txn => cases he
    | _ => trivial
  granted h q st hfirst := by
    refine ⟨fun hst hread => ?_, fun _ p hp ⟨_, _, _, _, _, _, _, hpre⟩ => ?_⟩
    · obtain ⟨a, n, hi⟩ := hread
      rw [hi, hst] at hfirst
      cases hfirst
    · cases hp; cases hpre
  sends h s j f hf hj hready := by
    obtain ⟨hread, hwren⟩ := hready
    refine ⟨fun hop => ?_, hwren⟩
    obtain ⟨hst, hi⟩ := isRead_of_opcode hf hj hop
    exact hread hst hi
  goesOn h f s st hgo := by
    refine ⟨fun hst hread => ?_, fun hst p hp ⟨_, _, _, _, _, _, _, hpre⟩ => ?_⟩
    · cases hgo with
      | pollAgain hbg => simp [hst] at hbg
      | enableAgain => cases hst
      | next hn hbusy _ =>
        subst hst
        exact ⟨_, rfl, hbusy (eq_preBg_of_nextStage hread hn)⟩
    · obtain rfl := Option.some.inj hp
      have hstage : s.stage = .preBg := (Event.txn.inj hpre).2.1
      cases hgo with
      | pollAgain => cases hst.symm.trans hstage
      | enableAgain hpoll => cases hpoll.symm.trans hstage
      | next _ hbusy _ => exact hbusy hstage

/-- Settles O51: the busy-gate's property is one that its gate enforces. -/
theorem stepKeepsTheBusyGateProperty : Obligations.StepKeepsTheBusyGateProperty := by
  intro s t hs hstep
  rw [busyGateInv_iff_gated] at hs ⊢
  exact busyGate_enforced.step_keeps hs hstep

end Sys2Proof.Safety
end

section
/-! Proofs for 42_operations.md (R155), the length of an ERASE_SECTOR on listed answers with full counts: its
gates, its frame and its post-gate one after another. -/

namespace Sys2Proof.Safety

open Sys2Proof.Machine

/-- Two runs in a row. -/
theorem steps_trans {a b : Nat} {s t u : State} (hs : steps a s = .next t) (ht : steps b t = .next u) :
    steps (a + b) s = .next u :=
  (steps_add a b s t hs).trans ht

/-- A frame of a command phase alone, with a full count (R113). -/
theorem xfer_noData_listed {f : Frame} {s : State} {rest : List Answer} (h : Nat) (hcs : s.csN = 1)
    (hd : f.data = .noData) (ha : s.answers = ⟨f.cmd.length, []⟩ :: rest) :
    xfer h f s = (.ok [], { s with
      trace := s.trace ++ [.txn h s.stage f.cmd .noData f.cmd.length none [] true]
      answers := rest
      draws := s.draws + 1 }) := by
  have hsent : sentCount f.cmd s = f.cmd.length := congrArg Answer.count (answerTo_listed _ s _ _ ha)
  rw [xfer_noData h f s hd hsent, cycled_of_csHigh hcs, ha, hd]
  rfl

/-- A busy-gate whose first poll with bit 0 clear comes after the polls `busy` (R122). -/
theorem steps_busyGate {h : Nat} {s : State} {busy : List Byte} {clear : Byte} {rest : List Answer}
    (hs : Serving h s) (hst : s.stage = .preBg ∨ s.stage = .postBg)
    (hbusy : ∀ b ∈ busy, b.getLsbD 0 = true) (hclear : clear.getLsbD 0 = false)
    (ha : s.answers = pollScript (busy ++ [clear]) ++ rest) :
    steps (busy.length + 1) s = .next (advance h [] (polled h (busy ++ [clear]) rest s)) := by
  rw [busyGateExitsAtTheFirstClearPoll s h busy clear rest hs.turns hs.csHigh hs.owner hst hs.inRow hbusy
    hclear ha]
  simp [polled]

/-! ### The phases of an ERASE_SECTOR -/

/-- The engine serves an ERASE_SECTOR of host `h`, with nothing else on the agenda. -/
structure ErasingSector (h : Nat) (s : State) : Prop where
  turns : s.turns = []
  csHigh : s.csN = 1
  owner : s.owner = some h
  cmd : s.op.cmd = 0x4

/-- The state after the frame SE with a full count, `rest` being the answers to come. -/
def sectorSent (h : Nat) (rest : List Answer) (s : State) : State :=
  { s with
    stage := .postBg
    trace := s.trace ++
      [.txn h .frame (0x20 :: addrBytes (sectorAddr s.op.sector)) .noData 4 none [] true]
    answers := rest
    draws := s.draws + 1 }

section

variable {h : Nat} {s : State} {rest : List Answer}

theorem ErasingSector.currentOp_eq (hs : ErasingSector h s) : currentOp s = .eraseSector s.op.sector := by
  obtain ⟨-, -, -, -, hdec, -⟩ := commandCodesSelectTheOperations s.op
  exact hdec hs.cmd

theorem ErasingSector.serving (hs : ErasingSector h s)
    (hst : s.stage ∈ [.preBg, .wgWren, .wgPoll, .frame, .postBg]) : Serving h s :=
  ⟨hs.turns, hs.csHigh, hs.owner, by rw [hs.currentOp_eq]; exact hst⟩

theorem ErasingSector.atEnable (hs : ErasingSector h s) (bs : List Byte) (rest : List Answer) :
    ErasingSector h ((polled h bs rest s).goto .wgWren) := { hs with }

theorem ErasingSector.atFrame (hs : ErasingSector h s) (bs : List Byte) (rest : List Answer) :
    ErasingSector h ((wgPolled h bs rest s).goto .frame) := { hs with }

theorem ErasingSector.atPostGate (hs : ErasingSector h s) (rest : List Answer) :
    ErasingSector h (sectorSent h rest s) := { hs with }

/-- The pre-gate, whose first poll with bit 0 clear comes after the polls `pre` (R122). -/
theorem ErasingSector.preGate {pre : List Byte} {clear : Byte} (hs : ErasingSector h s)
    (hst : s.stage = .preBg) (hpre : ∀ b ∈ pre, b.getLsbD 0 = true) (hclear : clear.getLsbD 0 = false)
    (ha : s.answers = pollScript (pre ++ [clear]) ++ rest) :
    steps (pre.length + 1) s = .next ((polled h (pre ++ [clear]) rest s).goto .wgWren) := by
  have hserving := hs.serving (by simp [hst])
  have hnext : nextStage Config.wrsrWait (currentOp s) s.stage = some .wgWren := by
    rw [hs.currentOp_eq, hst]
    rfl
  rw [steps_busyGate hserving (.inl hst) hpre hclear ha,
    advance_of_nextStage (s := polled h (pre ++ [clear]) rest s) h [] hnext]
  rfl

/-- The write-gate, whose first poll with bit 1 set comes after the polls `off` (R125). -/
theorem ErasingSector.writeGate {off : List Byte} {on : Byte} (hs : ErasingSector h s)
    (hst : s.stage = .wgWren) (hoff : ∀ b ∈ off, b.getLsbD 1 = false) (hon : on.getLsbD 1 = true)
    (ha : s.answers = wgScript (off ++ [on]) ++ rest) :
    steps (2 * (off.length + 1)) s = .next ((wgPolled h (off ++ [on]) rest s).goto .frame) := by
  have hserving := hs.serving (by simp [hst])
  obtain ⟨-, hopen⟩ := writeGateAlternatesUntilEnabled s h off on rest hs.turns hs.csHigh hs.owner hst
    hserving.inRow hoff hon ha
  rw [hopen]
  simp [wgPolled, State.goto]

/-- The FRAME step with a full count (R145). -/
theorem ErasingSector.frame (hs : ErasingSector h s) (hst : s.stage = .frame)
    (ha : s.answers = ⟨4, []⟩ :: rest) : step s = .next (sectorSent h rest s) := by
  have hserving := hs.serving (by simp [hst])
  have hf : currentFrame s = some (.se (sectorAddr s.op.sector)) := by
    obtain ⟨-, -, -, -, -, -, hown⟩ := currentFrame_gate s hserving.inRow
    rw [hown hst, hs.currentOp_eq]
    rfl
  obtain ⟨hexec, hwire⟩ := exec_frameBeforePostGate hs.owner hs.currentOp_eq hst nofun rfl rfl rfl
  have hx := xfer_noData_listed (f := frameSe (sectorAddr s.op.sector)) h hs.csHigh rfl ha
  rw [hst] at hx
  rw [hserving.step_eq_exec hf, hwire, hexec, sentThen_ok hx]
  rfl

/-- The post-gate, whose first poll with bit 0 clear comes after the polls `post` (R122, R145). -/
theorem ErasingSector.postGate {post : List Byte} {done : Byte} (hs : ErasingSector h s)
    (hst : s.stage = .postBg) (hpost : ∀ b ∈ post, b.getLsbD 0 = true) (hdone : done.getLsbD 0 = false)
    (ha : s.answers = pollScript (post ++ [done]) ++ rest) :
    steps (post.length + 1) s =
      .next (answered h .ok .noCause [] (polled h (post ++ [done]) rest s)) := by
  have hserving := hs.serving (by simp [hst])
  have hend : nextStage Config.wrsrWait (currentOp s) s.stage = none := by
    rw [hs.currentOp_eq, hst]
    rfl
  rw [steps_busyGate hserving (.inr hst) hpost hdone ha,
    advance_of_end (s := polled h (post ++ [done]) rest s) h [] hend]

end

/-- Settles O57: the four phases of the run, each from the state that the one before it leaves. -/
theorem eraseSectorCycleCount : Obligations.EraseSectorCycleCount := by
  intro s h pre off post clear on done rest hturns hcs ho hc hst hpre hclear hoff hon hpost hdone ha
  have hs : ErasingSector h s := ⟨hturns, hcs, ho, hc⟩
  simp only [List.append_assoc] at ha
  generalize hpostScript : pollScript (post ++ [done]) ++ rest = afterFrame at ha
  generalize hframeScript : [⟨4, []⟩] ++ afterFrame = afterWriteGate at ha
  generalize hwriteScript : wgScript (off ++ [on]) ++ afterWriteGate = afterPreGate at ha
  have hatEnable := hs.atEnable (pre ++ [clear]) afterPreGate
  have hatFrame := hatEnable.atFrame (off ++ [on]) afterWriteGate
  have hatPostGate := hatFrame.atPostGate afterFrame
  have hpreGate := hs.preGate hst hpre hclear ha
  have hwriteGate := hatEnable.writeGate rfl hoff hon hwriteScript.symm
  have hframe := hatFrame.frame rfl hframeScript.symm
  have hpostGate := hatPostGate.postGate rfl hpost hdone hpostScript.symm
  rw [steps_trans (steps_trans (steps_trans hpreGate hwriteGate) (steps_one _ _ hframe)) hpostGate]
  simp [answered, polled, wgPolled, sectorSent, State.goto, hst]

end Sys2Proof.Safety
end

section
/-! Proofs for 43_lifecycle.md (R180 to R183), INIT: the reset pair, and the comparison of the identity. -/

namespace Sys2Proof.Safety

open Sys2Proof.Machine

section

variable {h : Nat} {f : Frame} {s t : State} {i j : Instr} {st : Stage}

/-- After the grant an operation and the wire frame of its stage mean the same step (R24, R140). -/
theorem exec_stageFrame (ho : s.owner = some h) (hop : currentOp s = i) (hf : currentFrame s = some j)
    (hrun : runFrame j h s = t) : exec i s = .next t ∧ exec j s = exec i s :=
  ⟨hrun ▸ exec_eq_runFrame ho hop hf, hop ▸ (exec_currentOp hf).symm⟩

/-- INIT sends a frame of its reset pair and goes to the next stage, or answers TRANSACTION (R180, R181). -/
theorem exec_init_frameStep (ho : s.owner = some h) (hop : currentOp s = .init)
    (hf : currentFrame s = some j) (hrun : runFrame j h s = frameStep h f s)
    (hn : nextStage Config.wrsrWait .init s.stage = some st) :
    exec .init s = .next (sentThen h f s fun _ t => { t with stage := st }) ∧ exec j s = exec .init s :=
  exec_stageFrame ho hop hf (hrun.trans (frameStep_of_nextStage (hop ▸ hn)))

end

/-- Settles O33: RSTEN and RST are frame steps, each inside INIT's row. -/
theorem initSendsTheResetPair : Obligations.InitSendsTheResetPair := by
  refine ⟨fun _ => rfl, fun s h ho hc => ?_⟩
  obtain ⟨-, -, -, -, -, -, -, -, -, -, -, hdec, -⟩ := commandCodesSelectTheOperations s.op
  have hop : currentOp s = .init := hdec hc
  refine ⟨fun hst => ?_, fun hst => ?_⟩
  · have hf : currentFrame s = some .rsten := by rw [currentFrame, hop, hst]; rfl
    exact exec_init_frameStep ho hop hf rfl (by rw [hst]; rfl)
  · have hf : currentFrame s = some .rst := by rw [currentFrame, hop, hst]; rfl
    exact exec_init_frameStep ho hop hf rfl (by rw [hst]; rfl)

/-! ### The identity -/

/-- The identity matches when all three bytes do, in receive order (R183). -/
theorem idMatch_iff {rx : List Byte} : idMatch rx = true ↔ rx = [0xEF, 0x40, 0x17] :=
  decide_eq_true_iff

theorem sentThen_fail {h : Nat} {f : Frame} {s u : State} {k : List Byte → State → State}
    (hx : xfer h f s = (.fail, u)) : sentThen h f s k = answered h .error .transaction [] u := by
  simp only [sentThen, hx]

/-- INIT's identity step is a transaction that must succeed, and the comparison (R182, R183). -/
theorem initIdentity_eq_sentThen (h : Nat) (s : State) :
    initIdentity h s = sentThen h frameRdid s fun rx t =>
      if rx = [0xEF, 0x40, 0x17] then answered h .ok .noCause rx t
      else answered h .error .idMismatch rx t := by
  rcases initIdentity_cases h s with ⟨hx, he⟩ | ⟨rx, hx, hm, he⟩ | ⟨rx, hx, hm, he⟩
  · rw [he, sentThen_fail (Prod.ext hx rfl)]
  · rw [he, sentThen_ok (Prod.ext hx rfl), if_pos (idMatch_iff.mp hm)]
  · have hne : rx ≠ [0xEF, 0x40, 0x17] := fun hrx => Bool.false_ne_true (hm.symm.trans (idMatch_iff.mpr hrx))
    rw [he, sentThen_ok (Prod.ext hx rfl), if_neg hne]

/-- Settles O34: RDID under INIT is the identity step. -/
theorem initComparesTheIdentity : Obligations.InitComparesTheIdentity := by
  intro s h ho hc hst
  obtain ⟨-, -, -, -, -, -, -, -, -, -, -, hdec, -⟩ := commandCodesSelectTheOperations s.op
  have hop : currentOp s = .init := hdec hc
  have hf : currentFrame s = some .rdid := by rw [currentFrame, hop, hst]; rfl
  exact exec_stageFrame ho hop hf ((if_pos hop).trans (initIdentity_eq_sentThen h s))

end Sys2Proof.Safety
end

section
/-! Proofs for 44_arbiter.md (R190 to R199): which host is granted, the grant step, the host steps post and
take, the response, and the ownership of the engine along the steps and along the trace. -/

namespace Sys2Proof.Safety

open Sys2Proof.Machine

/-! ### The arbiter's choice -/

/-- The policy's value when it is a pending host, else the first; with one host pending both are that host
(R198, log entry 8). -/
theorem arbPick_cons (h : Nat) (rest : List Nat) (t : List Event) :
    arbPick (h :: rest) t =
      some (if Config.arbPolicy (h :: rest) t ∈ h :: rest then Config.arbPolicy (h :: rest) t else h) := by
  cases rest with
  | nil =>
    split
    next hmem => rw [List.mem_singleton.mp hmem, arbPick]
    next => rfl
  | cons h' rest => exact (apply_ite some _ _ _).symm

/-- Settles O9: some host is picked, one of the set. -/
theorem arbiterPicksAPendingHost : Obligations.ArbiterPicksAPendingHost := by
  refine ⟨fun hosts t hne => ?_, arbPick_cons⟩
  obtain ⟨h, hpick⟩ := Option.isSome_iff_exists.mp (arbPick_isSome hosts t hne)
  exact ⟨h, arbPick_mem hosts t h hpick, hpick⟩

/-- Nothing is granted when no host has posted (R192). -/
theorem arbitrate_of_pend_nil {s : State} (hp : s.pend = []) : arbitrate s = none := by
  simp [arbitrate, pendingHosts, hp, arbPick]

/-! ### The host steps -/

section

variable {n w h : Nat} {q : Request} {s : State}

theorem post_of_mayPost (hmay : mayPost n w h q s = true) : post n w h q s = s.fillPend h q :=
  if_pos hmay

theorem post_of_not_mayPost (hmay : ¬ mayPost n w h q s = true) : post n w h q s = s :=
  if_neg hmay

theorem take_of_full {r : Response} (hr : slotGet s.resp h = some r) : take h s = s.clearResp h := by
  simp [take, taken, hr]

theorem take_of_empty (hr : slotGet s.resp h = none) : take h s = s := by
  simp [take, taken, hr]

/-- A post writes a request slot at most (R191). -/
theorem post_changes_pend (n w h : Nat) (q : Request) (s : State) :
    ∃ pend, post n w h q s = { s with pend := pend } := by
  by_cases hmay : mayPost n w h q s = true
  · exact ⟨_, post_of_mayPost hmay⟩
  · exact ⟨s.pend, post_of_not_mayPost hmay⟩

/-- A take empties a response slot at most (R196). -/
theorem take_changes_resp (h : Nat) (s : State) : ∃ resp, take h s = { s with resp := resp } := by
  cases hr : slotGet s.resp h with
  | none => exact ⟨s.resp, take_of_empty hr⟩
  | some r => exact ⟨_, take_of_full hr⟩

end

/-- Settles O3: the host may post, so its slot is filled. -/
theorem postFillsTheSlot : Obligations.PostFillsTheSlot := by
  intro s h q rest hn hh hq hp hr
  have hmay : mayPost Config.nHosts Config.lenW h q (s.setTurns rest) = true :=
    mayPost_iff.mpr ⟨hh, hq, hp, hr⟩
  have hstep : step s = .next ((s.setTurns rest).fillPend h q) := by
    rw [step_of_turns_cons hn, turnStep, post_of_mayPost hmay]
  exact ⟨_, hstep, slotGet_slotPut_same s.pend h q, fun j hj => slotGet_slotPut_other s.pend h j q hj, rfl⟩

/-- Settles O4: what the host takes is what its slot held, and the slot is emptied. -/
theorem takeEmptiesTheSlot : Obligations.TakeEmptiesTheSlot := by
  intro s h r rest hn hr
  have hstep : step s = .next ((s.setTurns rest).clearResp h) := by
    rw [step_of_turns_cons hn, turnStep, take_of_full (s := s.setTurns rest) hr]
  exact ⟨hr, _, hstep, slotGet_slotClear_same s.resp h, fun j hj => slotGet_slotClear_other s.resp h j hj, rfl⟩

/-- Settles O5: each reason excludes the post; an empty slot gives nothing; with nothing pending the engine
waits. -/
theorem disabledTurnsChangeNothing : Obligations.DisabledTurnsChangeNothing := by
  refine ⟨fun s h q rest hn hwhy => ?_, fun s h rest hn hr => ?_, fun s hn hi hp => ?_⟩
  · have hmay : ¬ mayPost Config.nHosts Config.lenW h q (s.setTurns rest) = true := by
      intro hmay
      obtain ⟨hh, hq, hpend, hresp⟩ := mayPost_iff.mp hmay
      rcases hwhy with hfull | huntaken | hnone | hwide
      · exact hfull hpend
      · exact huntaken hresp
      · exact Nat.not_lt.mpr hnone hh
      · exact Bool.false_ne_true (hwide.symm.trans hq)
    rw [step_of_turns_cons hn, turnStep, post_of_not_mayPost hmay]
    rfl
  · rw [step_of_turns_cons hn, turnStep, take_of_empty (s := s.setTurns rest) hr]
    rfl
  · rw [step_of_turns_nil hn, engineStep_wait hi (arbitrate_of_pend_nil hp)]

/-! ### The response -/

/-- Settles O10: `respond` writes the owner's two slots and frees the engine. -/
theorem respondCompletesTheOperation : Obligations.RespondCompletesTheOperation := by
  intro s h result cause rdata
  rw [respond_eq]
  exact ⟨slotGet_slotPut_same s.resp h _, slotGet_slotClear_same s.pend h, rfl, rfl, rfl,
    fun j hj => ⟨slotGet_slotPut_other s.resp h j _ hj, slotGet_slotClear_other s.pend h j hj⟩,
    rfl, rfl, rfl, rfl, rfl⟩

/-! ### The grant -/

/-- The host operations are the instructions whose row has a first stage (R140, R194). -/
theorem firstStage_isSome (wait : Bool) (i : Instr) : (firstStage wait i).isSome = isOperation i := by
  cases i with
  | writeSr v1 v2 => cases wait <;> rfl
  | _ => rfl

/-- Settles O7: the row of an operation has a first stage, so the grant goes there. -/
theorem grantStartsTheOperation : Obligations.GrantStartsTheOperation := by
  rintro s _ h q hi ha rfl hop
  rw [exec_of_arbitrate hi ha]
  rcases grantTo_cases Config.wrsrWait h q s with ⟨st, hfirst, he⟩ | ⟨hfirst, -⟩
  · exact ⟨st, hfirst, by rw [he]; rfl⟩
  · rw [← firstStage_isSome Config.wrsrWait, hfirst] at hop
    exact absurd hop Bool.false_ne_true

/-- Settles O8: a reserved code has no row, so the grant step answers it. -/
theorem reservedCodeAnsweredAtGrant : Obligations.ReservedCodeAnsweredAtGrant := by
  rintro s _ h q hi ha rfl hres
  have hop : isOperation (decodeRequest q) = false :=
    (by decide : ∀ i ∈ [.reserved0, .reservedC, .reservedD, .reservedE, .reservedF],
      isOperation i = false) _ hres
  rw [exec_of_arbitrate hi ha]
  rcases grantTo_cases Config.wrsrWait h q s with ⟨st, hfirst, -⟩ | ⟨-, he⟩
  · rw [← firstStage_isSome Config.wrsrWait, hfirst] at hop
    exact absurd hop.symm Bool.false_ne_true
  · simp [he, answered, State.latch, State.emit]

/-! ### The owner keeps the engine -/

/-- The events of an engine that host `h` owns: its own transactions and response, or a reset. -/
def ownEvent (h : Nat) (e : Event) : Prop :=
  e = .reset ∨ (∃ r, e = .resp h r) ∨ ∃ st cmd d n1 n2 rx ok, e = .txn h st cmd d n1 n2 rx ok

/-- From `s` to `t` host `h` stays the owner of the operation being served, or the engine becomes free; the new
events are the owner's (R193, R197, R241). -/
def KeepsOwner (h : Nat) (s t : State) : Prop :=
  ((t.owner = some h ∧ t.op = s.op ∧ t.stage ≠ .idle) ∨ (t.owner = none ∧ t.stage = .idle)) ∧
    ∃ es, t.trace = s.trace ++ es ∧ ∀ e ∈ es, ownEvent h e

section

variable {h : Nat} {s : State}

/-- The owner's frame emits its transaction and keeps the owner, or answers it as well (R119, R195). -/
theorem keepsOwner_runFrame {j : Instr} (ho : s.owner = some h) (hf : currentFrame s = some j) :
    KeepsOwner h s (runFrame j h s) := by
  obtain ⟨f, n1, n2, rx, ok, k, hl⟩ := runFrame_leaves_cycled h hf
  have htxn : ownEvent h (.txn h s.stage f.cmd f.data n1 n2 rx ok) := .inr (.inr ⟨_, _, _, _, _, _, _, rfl⟩)
  rcases hl with ht | ⟨st, -, hst, ht⟩ | ⟨r, c, d, -, ht⟩ <;> rw [ht]
  · exact ⟨.inl ⟨ho, rfl, currentFrame_idle s j hf⟩, [_], rfl, by simpa using htxn⟩
  · exact ⟨.inl ⟨ho, rfl, hst⟩, [_], rfl, by simpa using htxn⟩
  · have hresp : ownEvent h (.resp h ⟨r, c, d⟩) := .inr (.inl ⟨_, rfl⟩)
    exact ⟨.inr ⟨rfl, rfl⟩, [_, _], List.append_assoc .., by simpa using ⟨htxn, hresp⟩⟩

/-- An owned engine's step is the owner's frame. -/
theorem keepsOwner_engineStep {t : State} (ho : s.owner = some h) (hi : s.stage ≠ .idle)
    (he : engineStep s = .next t) : KeepsOwner h s t := by
  rcases engineStep_next s t he with ⟨hidle, -⟩ | ⟨hidle, -⟩ | ⟨-, h', j, ho', hf, rfl⟩
  · exact absurd hidle hi
  · exact absurd hidle hi
  · obtain rfl : h = h' := Option.some.inj (ho.symm.trans ho')
    exact keepsOwner_runFrame ho hf

/-- What touches the slots and the agenda alone keeps the owner. -/
theorem keepsOwner_slots (ho : s.owner = some h) (hi : s.stage ≠ .idle) (pend : Slots Request)
    (resp : Slots Response) (turns : List Turn) :
    KeepsOwner h s { s with pend := pend, resp := resp, turns := turns } :=
  ⟨.inl ⟨ho, rfl, hi⟩, [], (List.append_nil _).symm, nofun⟩

/-- A block reset frees the engine (R241). -/
theorem keepsOwner_blockReset (h : Nat) (s : State) : KeepsOwner h s (blockReset s) :=
  ⟨.inr ⟨rfl, rfl⟩, [.reset], rfl, by simp [ownEvent]⟩

end

/-- Settles O53: an agent a case; only the engine and the reset touch the ownership. -/
theorem ownerKeepsTheEngine : Obligations.OwnerKeepsTheEngine := by
  intro s t h ho hi hs
  change KeepsOwner h s t
  rcases step_next s t hs with ⟨rest, -, he⟩ | ⟨h', q, rest, -, rfl⟩ | ⟨h', rest, -, rfl⟩ | ⟨rest, -, rfl⟩
  · exact keepsOwner_engineStep (s := s.setTurns rest) ho hi he
  · obtain ⟨pend, hpost⟩ := post_changes_pend Config.nHosts Config.lenW h' q (s.setTurns rest)
    exact hpost ▸ keepsOwner_slots ho hi pend s.resp rest
  · obtain ⟨resp, htake⟩ := take_changes_resp h' (s.setTurns rest)
    exact htake ▸ keepsOwner_slots ho hi s.pend resp rest
  · exact keepsOwner_blockReset h (s.setTurns rest)

/-! ### The ownership along the trace -/

/-- The owner's response frees the engine, in the trace as in the state (R195). -/
theorem ownershipInv_answered {s : State} {h : Nat} (hs : busOwner none s.trace = some (some h)) (r : Result)
    (c : Cause) (d : List Byte) : OwnershipInv (answered h r c d s) :=
  ⟨by simp [answered, busOwner_append, hs, busOwner], fun _ => rfl⟩

/-- A free engine's grant makes the host the owner, or answers it at once (R192, R194). -/
theorem ownershipInv_grantTo {s : State} (hs : OwnershipInv s) (hi : s.stage = .idle) (h : Nat) (q : Request) :
    OwnershipInv (grantTo Config.wrsrWait h q s) := by
  obtain ⟨hbus, hfree⟩ := hs
  rw [hfree hi] at hbus
  have hgrant : busOwner none (s.trace ++ [.grant h q]) = some (some h) := by
    simp [busOwner_append, hbus, busOwner]
  rcases grantTo_cases Config.wrsrWait h q s with ⟨st, hfirst, he⟩ | ⟨-, he⟩ <;> rw [he]
  · have hst : st ≠ .idle := by
      rintro rfl
      exact idle_notMem_stageRow _ _ (List.mem_of_mem_head? hfirst)
    exact ⟨hgrant, fun hidle => absurd hidle hst⟩
  · exact ownershipInv_answered (s := (s.latch h q).emit (.grant h q)) hgrant _ _ _

/-- The frame sent is a transaction of the present owner (R119, R199). -/
theorem ownershipInv_runFrame {s : State} {h : Nat} {j : Instr} (hs : OwnershipInv s) (ho : s.owner = some h)
    (hf : currentFrame s = some j) : OwnershipInv (runFrame j h s) := by
  obtain ⟨hbus, -⟩ := hs
  rw [ho] at hbus
  obtain ⟨f, n1, n2, rx, ok, k, hl⟩ := runFrame_leaves_cycled h hf
  have htxn : busOwner none (cycled h f n1 n2 rx ok k s).trace = some (some h) := by
    simp [cycled, busOwner_append, hbus, busOwner]
  rcases hl with ht | ⟨st, -, hst, ht⟩ | ⟨r, c, d, -, ht⟩ <;> rw [ht]
  · exact ⟨htxn.trans (congrArg some ho.symm), fun hi => absurd hi (currentFrame_idle s j hf)⟩
  · exact ⟨htxn.trans (congrArg some ho.symm), fun hi => absurd hi hst⟩
  · exact ownershipInv_answered htxn r c d

/-- A reset frees the engine whoever owned it (R241). -/
theorem ownershipInv_blockReset {s : State} (hs : OwnershipInv s) : OwnershipInv (blockReset s) := by
  obtain ⟨hbus, -⟩ := hs
  exact ⟨by simp [blockReset, busOwner_append, hbus, busOwner], fun _ => rfl⟩

/-- Settles O49: every move of every agent keeps the trace exclusive. -/
theorem stepKeepsChipSelectExclusive : Obligations.StepKeepsChipSelectExclusive := by
  intro s t hs hstep
  exact step_keeps OwnershipInv s t
    (hturns := fun _ _ hp => hp)
    (hgrant := fun _ h q hp hi _ => ownershipInv_grantTo hp hi h q)
    (hframe := fun _ _ _ hp ho hf => ownershipInv_runFrame hp ho hf)
    (hpost := fun s h q hp => by obtain ⟨pend, he⟩ := post_changes_pend _ _ h q s; exact he ▸ hp)
    (htake := fun s h hp => by obtain ⟨resp, he⟩ := take_changes_resp h s; exact he ▸ hp)
    (hreset := fun _ hp => ownershipInv_blockReset hp)
    hs hstep

end Sys2Proof.Safety
end

section
/-! Proofs for 70_reset_and_hazards.md (R240, R241), the block reset: its turn, and a cycle that it cuts. -/

namespace Sys2Proof.Machine

/-- Settles O2: the turn at the head of the agenda is the reset, which writes each of these elements. -/
theorem resetTurnResetsTheBlock : Obligations.ResetTurnResetsTheBlock :=
  fun _ _ hn => step_of_turns_cons hn

/-- Settles O15: a cut cycle is a cycle of the bytes that passed. -/
theorem cutCycleShowsAPrefix : Obligations.CutCycleShowsAPrefix := by
  intro fill f k
  have hcycle := selectLine_cycle ((cycleBytes fill f).take k) []
  rw [List.append_nil] at hcycle
  exact ⟨⟨_, List.take_prefix k _, rfl⟩, hcycle⟩

end Sys2Proof.Machine
end

section
/-! Proofs for 70_reset_and_hazards.md (R254): a granted operation ends. The agenda is used up first; then the
engine moves alone, and the operation goes through its row stage by stage, a gate poll by poll. -/

namespace Sys2Proof.Safety

open Sys2Proof.Machine

/-! ### What a frame with full counts can answer -/

/-- How operation `i` ends when no transaction failed: OK, or INIT's mismatch (R254). -/
def EndsWell (i : Instr) (r : Result) (c : Cause) : Prop :=
  r = .ok ∨ (i = .init ∧ r = .error ∧ c = .idMismatch)

/-- After a transaction of operation `i` that left `u`, the owner `h` goes on to some stage, or is answered
well. -/
def Decides (h : Nat) (i : Instr) (u t : State) : Prop :=
  (∃ st, t = u.goto st) ∨ ∃ r c d, t = answered h r c d u ∧ EndsWell i r c

/-- Frame `f` of host `h` takes `s` to `t`: a failure is answered TRANSACTION, and otherwise the operation
decides. -/
def FailsOrDecides (h : Nat) (f : Frame) (s t : State) : Prop :=
  ((xfer h f s).1 = .fail ∧ t = answered h .error .transaction [] (xfer h f s).2) ∨
    ∃ u, afterCycle (xfer h f s).2 u ∧ Decides h (currentOp s) u t

section

variable {h : Nat} {f : Frame} {s : State}

theorem decides_advance (i : Instr) (rdata : List Byte) (u : State) : Decides h i u (advance h rdata u) := by
  rcases advance_cases h rdata u with ⟨st, -, he⟩ | ⟨-, he⟩
  · exact .inl ⟨st, he⟩
  · exact .inr ⟨_, _, _, he, .inl rfl⟩

theorem decides_busyDecide (i : Instr) (b : Byte) (u : State) : Decides h i u (busyDecide h b u) := by
  unfold busyDecide
  split
  · exact .inl ⟨u.stage, rfl⟩
  · exact decides_advance i [] u

theorem decides_wgDecide (i : Instr) (b : Byte) (u : State) : Decides h i u (wgDecide h b u) := by
  unfold wgDecide
  split
  · exact decides_advance i [] u
  · exact .inl ⟨.wgWren, rfl⟩

theorem failsOrDecides_gatePoll {decideOn : Nat → Byte → State → State}
    (hd : ∀ b u, Decides h (currentOp s) u (decideOn h b u)) :
    FailsOrDecides h frameRdsr1 s (gatePoll Config.gateErrPolicy decideOn h s) := by
  rcases gatePoll_cases Config.gateErrPolicy decideOn h s with ⟨rx, -, he⟩ | ⟨hx, -, he⟩ | ⟨-, -, he⟩ <;> rw [he]
  · exact .inr ⟨_, .inl rfl, hd _ _⟩
  · exact .inl ⟨hx, rfl⟩
  · exact .inr ⟨_, .inr rfl, hd _ _⟩

theorem failsOrDecides_wgEnable : FailsOrDecides h frameWren s (wgEnable Config.gateErrPolicy h s) := by
  rcases wgEnable_cases Config.gateErrPolicy h s with ⟨hx, -, he⟩ | ⟨-, he⟩
  · exact .inl ⟨hx, he⟩
  · exact .inr ⟨_, .inl rfl, .inl ⟨.wgPoll, he⟩⟩

theorem failsOrDecides_frameStep : FailsOrDecides h f s (frameStep h f s) := by
  rcases frameStep_cases h f s with hfail | ⟨rx, -, he⟩
  · exact .inl hfail
  · exact .inr ⟨_, .inl rfl, he ▸ decides_advance _ rx _⟩

theorem failsOrDecides_initIdentity (hi : currentOp s = .init) :
    FailsOrDecides h frameRdid s (initIdentity h s) := by
  rcases initIdentity_cases h s with hfail | ⟨rx, -, -, he⟩ | ⟨rx, -, -, he⟩
  · exact .inl hfail
  · exact .inr ⟨_, .inl rfl, .inr ⟨_, _, _, he, .inl rfl⟩⟩
  · exact .inr ⟨_, .inl rfl, .inr ⟨_, _, _, he, .inr ⟨hi, rfl, rfl⟩⟩⟩

/-- Whatever the stage, the owner's frame is answered TRANSACTION only when its own transaction failed. -/
theorem runFrame_failsOrDecides {j : Instr} (h : Nat) (hf : currentFrame s = some j) :
    ∃ f, FailsOrDecides h f s (runFrame j h s) := by
  rcases runFrame_stage s j h hf with ⟨-, he⟩ | ⟨-, he⟩ | ⟨-, he⟩ | ⟨-, he⟩ | ⟨-, he⟩ | ⟨-, hi, he⟩ |
    ⟨-, -, -, f, -, he⟩ <;> rw [he]
  · exact ⟨_, failsOrDecides_gatePoll (decides_busyDecide _)⟩
  · exact ⟨_, failsOrDecides_gatePoll (decides_wgDecide _)⟩
  · exact ⟨_, failsOrDecides_wgEnable⟩
  · exact ⟨_, failsOrDecides_frameStep⟩
  · exact ⟨_, failsOrDecides_frameStep⟩
  · exact ⟨_, failsOrDecides_initIdentity hi⟩
  · exact ⟨_, failsOrDecides_frameStep⟩

end

/-! ### The conclusion and the premises along a run -/

/-- The run from `s` frees the engine with the response of host `h`, after transactions alone; with full counts
the operation ends well (R254). -/
def Ends (h : Nat) (s : State) : Prop :=
  ∃ n t es r, steps n s = .next t ∧ t.owner = none ∧ t.stage = .idle ∧
    slotGet t.resp h = some r ∧ t.trace = s.trace ++ es ++ [.resp h r] ∧
    (∀ e ∈ es, isTxn e = true) ∧ (chipFullCounts es → EndsWell (currentOp s) r.result r.cause)

/-- The premises of R254: host `h` owns the engine, no block reset is to come, and the chip opens the gates. -/
structure Served (h : Nat) (s : State) : Prop where
  inv : StateInv s
  owner : s.owner = some h
  noReset : Turn.reset ∉ s.turns
  wipClears : chipWipClears s
  welSets : chipWelSets s

/-- A step from `s` to `t` that uses the head of the agenda and does not end the operation of host `h`. -/
structure GoesOn (h : Nat) (s t : State) : Prop where
  owner : t.owner = some h
  op : t.op = s.op
  turns : t.turns = s.turns.tail
  txns : ∃ es, t.trace = s.trace ++ es ∧ ∀ e ∈ es, isTxn e = true

section

variable {h : Nat} {s t : State}

/-- An answer right after a frame ends the operation. -/
theorem ends_of_answered {u : State} {e : Event} {r : Result} {c : Cause} {d : List Byte}
    (hstep : step s = .next (answered h r c d u)) (htrace : u.trace = s.trace ++ [e]) (he : isTxn e = true)
    (hwell : chipFullCounts [e] → EndsWell (currentOp s) r c) : Ends h s :=
  ⟨1, _, [e], ⟨r, c, d⟩, steps_one _ _ hstep, rfl, rfl, slotGet_slotPut_same _ _ _,
    congrArg (· ++ [_]) htrace, by simpa using he, hwell⟩

/-- The operation ends when it ends from where a step that goes on leads. -/
theorem GoesOn.ends (hgo : GoesOn h s t) (hstep : step s = .next t) (ht : Ends h t) : Ends h s := by
  obtain ⟨es, htrace, hes⟩ := hgo.txns
  obtain ⟨n, t', es', r, hsteps, ho, hst, hr, htrace', hes', hwell⟩ := ht
  refine ⟨n + 1, t', es ++ es', r, (steps_succ n hstep).trans hsteps, ho, hst, hr,
    by simp [htrace', htrace], List.forall_mem_append.mpr ⟨hes, hes'⟩, fun hfull => ?_⟩
  have hop : currentOp t = currentOp s := congrArg decodeRequest hgo.op
  exact hop ▸ hwell fun e he => hfull e (List.mem_append_right es he)

/-- A step that goes on keeps the premises. -/
theorem Served.next (hs : Served h s) (hstep : step s = .next t) (hgo : GoesOn h s t) : Served h t where
  inv := stepKeepsTheStateInvariant s t hs.inv hstep
  owner := hgo.owner
  noReset hmem := hs.noReset (List.mem_of_mem_tail (hgo.turns ▸ hmem))
  wipClears n u k hu := hs.wipClears (n + 1) u k ((steps_succ n hstep).trans hu)
  welSets n u k hu := hs.welSets (n + 1) u k ((steps_succ n hstep).trans hu)

theorem Served.stage_mem (hs : Served h s) : s.stage ∈ stageRow Config.wrsrWait (currentOp s) :=
  hs.inv.stageInRow fun hi => by simpa [hs.owner] using hs.inv.ownerIdle.mpr hi

/-- The sequencer has a frame for every stage of a row (R119, R140). -/
theorem stageFrame_isSome {wait : Bool} {i : Instr} {st : Stage} (hm : st ∈ stageRow wait i) :
    (stageFrame wait i st).isSome := by
  simp only [stageFrame, if_pos hm]
  cases st with
  | idle => exact absurd hm (idle_notMem_stageRow wait i)
  | frame =>
    cases i with
    | identify | read | program | eraseSector | eraseChip | writeSr | writeEnable | writeDisable | readSr1
    | readSr2 | init => rfl
    | _ => cases hm
  | _ => rfl

theorem Served.exists_frame (hs : Served h s) : ∃ j, currentFrame s = some j :=
  Option.isSome_iff_exists.mp (stageFrame_isSome hs.stage_mem)

/-- The engine's turn, listed or not, sends the owner's frame with the agenda read up to it. -/
theorem Served.ends_or_goesOn_of_engineTurn (hs : Served h s)
    (hstep : step s = engineStep (s.setTurns s.turns.tail)) :
    Ends h s ∨ ∃ t, step s = .next t ∧ GoesOn h s t := by
  obtain ⟨j, hf⟩ := hs.exists_frame
  have hf' : currentFrame (s.setTurns s.turns.tail) = some j := hf
  rw [engineStep_frame (s := s.setTurns s.turns.tail) hs.owner hf'] at hstep
  obtain ⟨f, ⟨hx, ht⟩ | ⟨u, hu, ht⟩⟩ := runFrame_failsOrDecides h hf'
  · refine .inl (ends_of_answered (hstep.trans (congrArg _ ht)) (xfer_trace h f _) rfl fun hfull => ?_)
    rw [txnEvent_of_xfer_fail hx] at hfull
    exact nomatch hfull _ (List.mem_singleton_self _) _ _ _ _ _ _ _ _ rfl
  · obtain ⟨htrace, howner, -, -⟩ := afterCycle_keeps hu
    rcases ht with ⟨st, ht⟩ | ⟨r, c, d, ht, hwell⟩
    · obtain ⟨hothers, hop, -⟩ := runFrame_frame h hf'
      rw [ht] at hstep hop hothers
      exact .inr ⟨_, hstep, howner.trans hs.owner, hop, hothers.turns, [_], htrace, by simp [isTxn, txnEvent]⟩
    · exact .inl (ends_of_answered (hstep.trans (congrArg _ ht)) htrace rfl fun _ => hwell)

/-- A step of any agent but the environment ends the operation or goes on. -/
theorem Served.ends_or_goesOn (hs : Served h s) : Ends h s ∨ ∃ t, step s = .next t ∧ GoesOn h s t := by
  cases hn : s.turns with
  | nil =>
    have hself : s.setTurns s.turns.tail = s := by rw [hn]; cases s; cases hn; rfl
    exact hs.ends_or_goesOn_of_engineTurn (by rw [step_of_turns_nil hn, hself])
  | cons turn rest =>
    have hstep : step s = turnStep turn (s.setTurns rest) := step_of_turns_cons hn
    have htail : rest = s.turns.tail := by rw [hn, List.tail_cons]
    have htxns : ∃ es, s.trace = s.trace ++ es ∧ ∀ e ∈ es, isTxn e = true := ⟨[], by simp, nofun⟩
    cases turn with
    | engine => exact hs.ends_or_goesOn_of_engineTurn (htail ▸ hstep)
    | post h' q =>
      obtain ⟨pend, hp⟩ := post_changes_pend Config.nHosts Config.lenW h' q (s.setTurns rest)
      exact .inr ⟨_, hstep.trans (congrArg Host.Outcome.next hp), hs.owner, rfl, htail, htxns⟩
    | take h' =>
      obtain ⟨resp, hr⟩ := take_changes_resp h' (s.setTurns rest)
      exact .inr ⟨_, hstep.trans (congrArg Host.Outcome.next hr), hs.owner, rfl, htail, htxns⟩
    | reset => exact absurd (hn ▸ List.mem_cons_self) hs.noReset

/-- An operation ends when it ends from every state in which its step goes on. -/
theorem Served.ends_of_goesOn (hs : Served h s)
    (hends : ∀ t, step s = .next t → Served h t → GoesOn h s t → Ends h t) : Ends h s := by
  rcases hs.ends_or_goesOn with hdone | ⟨t, hstep, hgo⟩
  · exact hdone
  · exact hgo.ends hstep (hends t hstep (hs.next hstep hgo) hgo)

/-- The agenda is finite, so that it is enough that operations end once the engine moves alone (log entry 1). -/
theorem Served.ends_of_alone (halone : ∀ s, Served h s → s.turns = [] → Ends h s) (hs : Served h s) :
    Ends h s := by
  induction hn : s.turns generalizing s with
  | nil => exact halone s hs hn
  | cons turn rest ih =>
    exact hs.ends_of_goesOn fun t _ ht hgo => ih ht (by rw [hgo.turns, hn, List.tail_cons])

end

/-! ### The engine alone -/

/-- Host `h` is served, and the agenda is used up. -/
structure Alone (h : Nat) (s : State) : Prop extends Served h s where
  turns : s.turns = []

/-- The operation ends from every state in which it stands at the stage after that of `s`. -/
def EndsAfter (h : Nat) (s : State) : Prop :=
  ∀ t, Alone h t → t.op = s.op → nextStage Config.wrsrWait (currentOp s) s.stage = some t.stage → Ends h t

section

variable {h : Nat} {s : State}

/-- An engine alone sends the frame of the stage; the operation ends when it ends from where that goes on. -/
theorem Alone.ends_of_frame (hs : Alone h s) {j : Instr} (hf : currentFrame s = some j)
    (hends : Alone h (runFrame j h s) → (runFrame j h s).op = s.op → Ends h (runFrame j h s)) : Ends h s := by
  refine hs.ends_of_goesOn fun t hstep ht hgo => ?_
  rw [step_of_turns_nil hs.turns, engineStep_frame hs.owner hf] at hstep
  cases hstep
  exact hends ⟨ht, by rw [hgo.turns, hs.turns, List.tail_nil]⟩ hgo.op

/-- A stage that is done leads to the next one, or the operation has ended. -/
theorem ends_advance {u : State} {rdata : List Byte} (hnext : EndsAfter h s) (hop : u.op = s.op)
    (hst : u.stage = s.stage) (ht : Alone h (advance h rdata u)) : Ends h (advance h rdata u) := by
  rcases advance_cases h rdata u with ⟨st, hn, he⟩ | ⟨-, he⟩ <;> rw [he] at ht ⊢
  · rw [currentOp, hop, hst] at hn
    exact hnext _ ht hop hn
  · exact nomatch ht.owner

/-- What follows the stage depends on the latched request and the stage alone. -/
theorem EndsAfter.congr {t : State} (hnext : EndsAfter h s) (hop : t.op = s.op) (hst : t.stage = s.stage) :
    EndsAfter h t := fun u hu hopu hn =>
  hnext u hu (hopu.trans hop) (by rwa [currentOp, hop, hst] at hn)

/-- A poll keeps the latched request and the stage. -/
theorem afterPoll_keeps (h : Nat) (s : State) :
    (afterPoll h s).op = s.op ∧ (afterPoll h s).stage = s.stage := by
  obtain ⟨hop, hst, -⟩ := xfer_keeps h frameRdsr1 s
  unfold afterPoll
  split <;> exact ⟨hop, hst⟩

/-- A frame step off the gates' polls ends the operation or goes to the next stage (R123, R141). -/
theorem Alone.ends_of_notPolling (hs : Alone h s) (hbusy : ¬(s.stage = .preBg ∨ s.stage = .postBg))
    (hwrite : s.stage ≠ .wgPoll) (hnext : EndsAfter h s) : Ends h s := by
  obtain ⟨j, hf⟩ := hs.exists_frame
  refine hs.ends_of_frame hf ?_
  obtain ⟨f, -, u, -, ⟨r, c, d, he⟩ | ⟨st, hgo, he⟩⟩ := runFrame_takes h hf <;> rw [he]
  · exact fun ht => nomatch ht.owner
  · intro ht hop
    cases hgo with
    | pollAgain hst => exact absurd hst hbusy
    | enableAgain hst => exact absurd hst hwrite
    | next hn _ _ => exact hnext _ ht hop hn

/-! ### The gates -/

/-- A busy-gate polls again only after a byte with bit 0 set (R121). -/
theorem Alone.ends_of_busyPoll (hs : Alone h s) (hst : s.stage = .preBg ∨ s.stage = .postBg)
    (hnext : EndsAfter h s)
    (hagain : (∀ c, pollByte h s = some c → wip c = true) → Alone h (afterPoll h s) → Ends h (afterPoll h s)) :
    Ends h s := by
  refine hs.ends_of_frame (currentFrame_poll (hst.imp_right .inr) hs.stage_mem) ?_
  rw [runFrame_busyPoll h hst, busyPoll]
  rcases gatePoll_afterPoll busyDecide h s with ⟨-, -, he⟩ | ⟨b, he, hb⟩ <;> rw [he]
  · exact fun ht => nomatch ht.owner
  · obtain ⟨hop, hstage⟩ := afterPoll_keeps h s
    unfold busyDecide
    split
    next hwip => exact fun ht _ => hagain (fun c hc => hb c hc ▸ hwip) ht
    next => exact fun ht _ => ends_advance hnext hop hstage ht

/-- A busy-gate that opens at its poll number `k` ends the operation or goes to the next stage (R122). -/
theorem Alone.ends_of_busyGate (hs : Alone h s) (hst : s.stage = .preBg ∨ s.stage = .postBg)
    (hnext : EndsAfter h s) {k : Nat} {b : Byte} (hb : pollByte h (busyPolls h k s) = some b)
    (hclear : wip b = false) : Ends h s := by
  induction k generalizing s with
  | zero => exact hs.ends_of_busyPoll hst hnext fun hset => absurd (hset b hb) (by simp [hclear])
  | succ k ih =>
    obtain ⟨hop, hstage⟩ := afterPoll_keeps h s
    exact hs.ends_of_busyPoll hst hnext fun _ ht => ih ht (hstage ▸ hst) (hnext.congr hop hstage) hb

/-- A write-gate goes back to its enable half only after a byte with bit 1 clear (R124). -/
theorem Alone.ends_of_writePoll (hs : Alone h s) (hst : s.stage = .wgPoll) (hnext : EndsAfter h s)
    (hagain : (∀ c, pollByte h s = some c → wel c = false) → Alone h ((afterPoll h s).goto .wgWren) →
      Ends h ((afterPoll h s).goto .wgWren)) : Ends h s := by
  refine hs.ends_of_frame (currentFrame_poll (.inr (.inl hst)) hs.stage_mem) ?_
  rw [runFrame_wgPoll h hst, wgPoll]
  rcases gatePoll_afterPoll wgDecide h s with ⟨-, -, he⟩ | ⟨b, he, hb⟩ <;> rw [he]
  · exact fun ht => nomatch ht.owner
  · obtain ⟨hop, hstage⟩ := afterPoll_keeps h s
    unfold wgDecide
    split
    next => exact fun ht _ => ends_advance hnext hop hstage ht
    next hwel => exact fun ht _ => hagain (fun c hc => hb c hc ▸ by simpa using hwel) ht

/-- The write-gate's enable half ends the operation or goes to its poll half (R123). -/
theorem Alone.ends_of_enable (hs : Alone h s) (hst : s.stage = .wgWren)
    (hpoll : Alone h (afterEnable h s) → Ends h (afterEnable h s)) : Ends h s := by
  refine hs.ends_of_frame (currentFrame_enable hst hs.stage_mem) ?_
  rw [runFrame_wgEnable h hst]
  rcases wgEnable_cases Config.gateErrPolicy h s with ⟨-, -, he⟩ | ⟨-, he⟩ <;> rw [he]
  · exact fun ht => nomatch ht.owner
  · exact fun ht _ => hpoll ht

/-- A write-gate that opens at its poll number `k` ends the operation or goes to the next stage (R125). -/
theorem Alone.ends_of_writeGate (hs : Alone h s) (hst : s.stage = .wgPoll) (hnext : EndsAfter h s)
    {k : Nat} {b : Byte} (hb : pollByte h (writePolls h k s) = some b) (hset : wel b = true) : Ends h s := by
  have hat : pollAt h s = s := if_neg (by simp [hst])
  induction k generalizing s with
  | zero =>
    rw [writePolls, hat] at hb
    exact hs.ends_of_writePoll hst hnext fun hclear => absurd (hclear b hb) (by simp [hset])
  | succ k ih =>
    rw [writePolls, hat, ← writePolls_afterEnable h k _ rfl] at hb
    refine hs.ends_of_writePoll hst hnext fun _ ht => ht.ends_of_enable rfl fun ht' => ?_
    obtain ⟨hop, -⟩ := afterPoll_keeps h s
    obtain ⟨hop', -, -⟩ := xfer_keeps h frameWren ((afterPoll h s).goto .wgWren)
    exact ih ht' rfl (hnext.congr (hop'.trans hop) hst.symm) hb (if_neg nofun)

/-! ### Stage by stage -/

/-- Whatever its stage, an operation ends when it ends from the stage after it. -/
theorem Alone.ends_of_endsAfter (hs : Alone h s) (hnext : EndsAfter h s) : Ends h s := by
  by_cases hbusy : s.stage = .preBg ∨ s.stage = .postBg
  · obtain ⟨k, b, hb, hclear⟩ := hs.wipClears 0 s h rfl hs.owner hbusy
    exact hs.ends_of_busyGate hbusy hnext hb hclear
  by_cases hwrite : s.stage = .wgPoll
  · obtain ⟨k, b, hb, hset⟩ := hs.welSets 0 s h rfl hs.owner (.inr hwrite)
    exact hs.ends_of_writeGate hwrite hnext hb hset
  · exact hs.ends_of_notPolling hbusy hwrite hnext

/-- An engine alone ends the operation, by induction on what is left of its row (R140). -/
theorem Alone.ends (hs : Alone h s) : Ends h s := by
  obtain ⟨before, rest, hrow⟩ := List.append_of_mem hs.stage_mem
  induction rest generalizing before s with
  | nil => exact hs.ends_of_endsAfter fun t _ _ hn => nomatch (nextStage_of_stageRow hrow).symm.trans hn
  | cons st rest ih =>
    refine hs.ends_of_endsAfter fun t ht hop hn => ih ht (before ++ [s.stage]) ?_
    obtain rfl : st = t.stage := Option.some.inj ((nextStage_of_stageRow hrow).symm.trans hn)
    rw [currentOp, hop, ← List.append_cons]
    exact hrow

end

/-- Settles O58: the agenda is used up, and from then on the engine is alone. -/
theorem grantedOperationEnds : Obligations.GrantedOperationEnds :=
  fun _ _ hinv ho hreset hwip hwel =>
    Served.ends_of_alone (fun _ hs hn => Alone.ends ⟨hs, hn⟩) ⟨hinv, ho, hreset, hwip, hwel⟩

end Sys2Proof.Safety
end
